-- ==== Sys2Proof/Word.lean ====
section
/-! DEFINITION. The word types of the block: bytes, nibbles, signed operands, command words. -/

namespace Sys2Proof

/-- A byte, 0..255 (spec/00_scope.md R7). -/
abbrev Byte := BitVec 8

/-- A control-address nibble or a device address (20_memory.md R30, R31; `ADDR_W` = 4, D3, log 3). -/
abbrev Nibble := BitVec 4

/-- A signed operand as it travels in the command word: `VOL_W` = 16 bits of two's complement (30_encoding.md R52;
D2, log 2). Its value is `BitVec.toInt`. -/
abbrev Operand := BitVec 16

/-- A command word: `4 + 2 * VOL_W` = 36 bits (30_encoding.md R50; D1, log 1). -/
abbrev CmdWord := BitVec 36

/-- An opaque identifier of a select line (10_state.md R19; D18, log 20). Only equality means anything. -/
abbrev LineId := Nat

end Sys2Proof
end

