-- ==== Sys2Proof/Syntax.lean ====
section
/-! DEFINITION. The commands: one constructor per row of spec/opcode_table.json. -/

namespace Sys2Proof

/-- A command, decoded (30_encoding.md R51, R60, R64, R65). Signed operands are the 16 bits of the word, read with
`BitVec.toInt`. -/
inductive Instr where
  /-- `INIT` (43_transfer_and_init.md R110). -/
  | init
  /-- `SETVOL l, r` (42_level_setters.md R90). -/
  | setvol (l r : Operand)
  /-- `SETGAIN l, r` (42_level_setters.md R94). -/
  | setgain (l r : Operand)
  /-- `MUTE` (42_level_setters.md R98). -/
  | mute
  /-- `SETZC e` (41_state_setters.md R80). -/
  | setzc (e : Bool)
  /-- `SETATTLINK e` (41_state_setters.md R82). -/
  | setattlink (e : Bool)
  /-- `SETGAINLINK e` (41_state_setters.md R84). -/
  | setgainlink (e : Bool)
  /-- The reserved opcode 0x7 (30_encoding.md R60). -/
  | reserved7
  /-- A reserved opcode `op`, 0x8..0xF (30_encoding.md R60). -/
  | reserved8F (op : Nibble)
  /-- The pseudo-command `SETVOL1 v` (30_encoding.md R64, 42_level_setters.md R92). -/
  | setvol1 (v : Operand)
  /-- The pseudo-command `SETGAIN1 g` (30_encoding.md R65, 42_level_setters.md R96). -/
  | setgain1 (g : Operand)
  deriving DecidableEq, Repr

/-- The row's mnemonic in spec/opcode_table.json. -/
def Instr.mnemonic : Instr → String
  | .init => "INIT"
  | .setvol _ _ => "SETVOL"
  | .setgain _ _ => "SETGAIN"
  | .mute => "MUTE"
  | .setzc _ => "SETZC"
  | .setattlink _ => "SETATTLINK"
  | .setgainlink _ => "SETGAINLINK"
  | .reserved7 => "RESERVED_7"
  | .reserved8F _ => "RESERVED_8_F"
  | .setvol1 _ => "SETVOL1"
  | .setgain1 _ => "SETGAIN1"

end Sys2Proof
end

