-- ==== Sys2Proof/WellFormed.lean ====
section
/-! DEFINITION. Which terms of `Instr` stand for a command the hardware or its assembler can name. -/

namespace Sys2Proof

/-- The only check the types leave open: a `RESERVED_8_F` term carries an opcode in 0x8..0xF (30_encoding.md R60). -/
def Instr.wellFormed : Instr → Bool
  | .init => true
  | .setvol _ _ => true
  | .setgain _ _ => true
  | .mute => true
  | .setzc _ => true
  | .setattlink _ => true
  | .setgainlink _ => true
  | .reserved7 => true
  | .reserved8F op => decide (8 ≤ op.toNat)
  | .setvol1 _ => true
  | .setgain1 _ => true

end Sys2Proof
end

