-- ==== Sys2Proof/Decode.lean ====
section
/-! DEFINITION. The 36-bit command word: decoder, expansion of the pseudo-commands, encoder, opcode table. -/

namespace Sys2Proof

/-- Bits 35:32 (30_encoding.md R50). -/
def opField (w : CmdWord) : Nibble := w.extractLsb' 32 4

/-- Bits 31:16 (30_encoding.md R50). -/
def fieldA (w : CmdWord) : Operand := w.extractLsb' 16 16

/-- Bits 15:0 (30_encoding.md R50). -/
def fieldB (w : CmdWord) : Operand := w.extractLsb' 0 16

/-- `A[0]`, bit 16 of the word: the Boolean operand (30_encoding.md R53; D13, log 13). -/
def enabledBit (w : CmdWord) : Bool := w.getLsbD 16

/-- The decoder (30_encoding.md R51, R54, R60, R66): total, looks at `op`, then at the fields that command uses. A
pseudo-command is never the answer: its word is that of the command it expands to (R66, log 26). -/
def decode (w : CmdWord) : Instr :=
  match (opField w).toNat with
  | 0 => .init
  | 1 => .setvol (fieldA w) (fieldB w)
  | 2 => .setgain (fieldA w) (fieldB w)
  | 3 => .mute
  | 4 => .setzc (enabledBit w)
  | 5 => .setattlink (enabledBit w)
  | 6 => .setgainlink (enabledBit w)
  | 7 => .reserved7
  | _ => .reserved8F (opField w)

/-- The command a pseudo-command expands to (30_encoding.md R64, R65); every other command is itself. -/
def Instr.expand : Instr → Instr
  | .init => .init
  | .setvol l r => .setvol l r
  | .setgain l r => .setgain l r
  | .mute => .mute
  | .setzc e => .setzc e
  | .setattlink e => .setattlink e
  | .setgainlink e => .setgainlink e
  | .reserved7 => .reserved7
  | .reserved8F op => .reserved8F op
  | .setvol1 v => .setvol v v
  | .setgain1 g => .setgain g g

/-- `zext_16(e)` of 30_encoding.md R63. -/
def boolOperand (e : Bool) : Operand := (BitVec.ofBool e).setWidth 16

/-- `{op, A, B}` (30_encoding.md R50). -/
def packWord (op : Nibble) (a b : Operand) : CmdWord := op ++ a ++ b

/-- The command word of a command, zero in the ignored bits (30_encoding.md R54, R63). -/
def encode : Instr → CmdWord
  | .init => packWord 0x0#4 0#16 0#16
  | .setvol l r => packWord 0x1#4 l r
  | .setgain l r => packWord 0x2#4 l r
  | .mute => packWord 0x3#4 0#16 0#16
  | .setzc e => packWord 0x4#4 (boolOperand e) 0#16
  | .setattlink e => packWord 0x5#4 (boolOperand e) 0#16
  | .setgainlink e => packWord 0x6#4 (boolOperand e) 0#16
  | .reserved7 => packWord 0x7#4 0#16 0#16
  | .reserved8F op => packWord op 0#16 0#16
  | .setvol1 v => packWord 0x1#4 v v
  | .setgain1 g => packWord 0x2#4 g g

/-- One row of spec/opcode_table.json that a decoder reads: a word `w` is the row's when `w &&& mask = pattern`. -/
structure OpcodeRow where
  mnemonic : String
  mask : CmdWord
  pattern : CmdWord
  deriving DecidableEq, Repr

/-- The nine rows of spec/opcode_table.json without `"decode": false` (30_encoding.md R66). -/
def opcodeRows : List OpcodeRow :=
  [ ⟨"INIT", 0xF00000000#36, 0x000000000#36⟩,
    ⟨"SETVOL", 0xF00000000#36, 0x100000000#36⟩,
    ⟨"SETGAIN", 0xF00000000#36, 0x200000000#36⟩,
    ⟨"MUTE", 0xF00000000#36, 0x300000000#36⟩,
    ⟨"SETZC", 0xF00000000#36, 0x400000000#36⟩,
    ⟨"SETATTLINK", 0xF00000000#36, 0x500000000#36⟩,
    ⟨"SETGAINLINK", 0xF00000000#36, 0x600000000#36⟩,
    ⟨"RESERVED_7", 0xF00000000#36, 0x700000000#36⟩,
    ⟨"RESERVED_8_F", 0x800000000#36, 0x800000000#36⟩ ]

/-- The bits of a word that its decoding looks at, as a mask: `op` always, both operands for SETVOL and SETGAIN, bit 16
for the three state-bit commands, nothing more for the rest (30_encoding.md R54). -/
def usedBits (w : CmdWord) : CmdWord :=
  match (opField w).toNat with
  | 1 => 0xFFFFFFFFF#36
  | 2 => 0xFFFFFFFFF#36
  | 4 => 0xF00010000#36
  | 5 => 0xF00010000#36
  | 6 => 0xF00010000#36
  | _ => 0xF00000000#36

/-- The command word that `nbits` bits `w`, numbered as spec/opcode_table.json numbers them, stand for; none where a
bit above bit 35 is set, since no command word has one (30_encoding.md R50). -/
def wordOfTableBits (nbits w : Nat) : Option CmdWord :=
  if w % 2 ^ nbits < 2 ^ 36 then some (BitVec.ofNat 36 (w % 2 ^ nbits)) else none

/-- The host's reading of a table row's bits through `decode`. -/
def decodeTableWord (nbits w : Nat) : Option Instr :=
  (wordOfTableBits nbits w).map decode

end Sys2Proof
end

