-- ==== Sys2Proof/Config.lean ====
section
/-! DEFINITION. What an implementation fixes (spec/00_scope.md R6) and the free values. -/

namespace Sys2Proof

/-- The bit order handed to the transport; opaque to the block (00_scope.md R6, 10_state.md R20). -/
inductive BitOrder where
  | msbFirst
  | lsbFirst
  deriving DecidableEq, Repr

/-- The triple (`BUS_CLOCK_HZ`, `BUS_BIT_ORDER`, `BUS_CLOCK_MODE`) of 10_state.md R20: passed to the transport
unchanged, no rule depends on it. -/
structure BusConfig where
  clockHz : Nat
  bitOrder : BitOrder
  clockMode : Nat
  deriving DecidableEq, Repr

/-- The five control addresses `CTRL_*` of 00_scope.md R6 and 20_memory.md R32, each held as its nibble: the control
address is that nibble over four zero bits (R31), so the constraint "bits 3:0 equal to zero" cannot be broken. -/
structure CtrlMap where
  attL : Nibble
  attR : Nibble
  gainL : Nibble
  gainR : Nibble
  state : Nibble
  deriving DecidableEq, Repr

/-- The five nibbles in the order of the table of 20_memory.md R32. -/
def CtrlMap.nibbles (m : CtrlMap) : List Nibble :=
  [m.attL, m.attR, m.gainL, m.gainR, m.state]

/-- "the five are pairwise distinct" (00_scope.md R6). -/
abbrev CtrlMap.distinct (m : CtrlMap) : Prop :=
  m.nibbles.Nodup

/-- One of the five control addresses (20_memory.md R32). -/
abbrev CtrlMap.holds (m : CtrlMap) (ctrl : Nibble) : Prop :=
  ctrl ∈ m.nibbles

/-- The elaboration-time parameters of one instance (00_scope.md R6). A state carries its own, and no step writes
them, so that a statement about every state is a statement about every choice of parameters (log 4, 5). -/
structure Params where
  ctrl : CtrlMap
  bus : BusConfig
  deriving DecidableEq, Repr

/-- The default control addresses 0x00, 0x20, 0x10, 0x30, 0x40 of 00_scope.md R6. PRESUMED, unsafe (G2, log 4): the
spec itself supplies them from general knowledge. Used by `State.reset` alone; no meaning mentions them. -/
def Config.defaultCtrl : CtrlMap :=
  { attL := 0x0#4, attR := 0x2#4, gainL := 0x1#4, gainR := 0x3#4, state := 0x4#4 }

/-- The default bus parameters of 00_scope.md R6. PRESUMED, unsafe (G3, log 5). Used by `State.reset` alone. -/
def Config.defaultBus : BusConfig :=
  { clockHz := 250000, bitOrder := .msbFirst, clockMode := 2 }

/-- The parameters that `State.reset` takes. -/
def Config.defaultParams : Params :=
  { ctrl := Config.defaultCtrl, bus := Config.defaultBus }

/-- The strap `DEVICE_ADDRESS` that `State.reset` samples: any value in 0..15 is legal (00_scope.md R6).
DESIGN CHOICE, unsafe (log 20). -/
def Config.resetStrap : Nibble := 0x0#4

/-- The parameter `SELECT_LINE` of `State.reset` (00_scope.md R6). DESIGN CHOICE, unsafe (log 20). -/
def Config.resetSelectLine : LineId := 0

/-- A byte the spec leaves unknown: the `n`-th one drawn by the instance that owns select line `line`
(20_memory.md R39, R40, 70_reset_and_hazards.md R136; log 19). It has no body, so nothing is known of it. -/
opaque Config.freeByte (line : LineId) (n : Nat) : Byte

end Sys2Proof
end

