-- ==== Sys2Proof/Machine/Event.lean ====
section
/-! DEFINITION. The outbound events and their codes on the event port (spec/10_state.md R22). -/

namespace Sys2Proof.Machine

/-- A level driven on a select line. Low is active, high is inactive (43_transfer_and_init.md R105). -/
inductive Level where
  | low
  | high
  deriving DecidableEq, Repr

/-- `lineLevel` of 10_state.md R21: the last level driven, or none yet. -/
inductive LineLevel where
  | unconfigured
  | low
  | high
  deriving DecidableEq, Repr

/-- One call on the transport (10_state.md R22). -/
inductive Event where
  /-- `TXN_BEGIN(cfg)`. -/
  | txnBegin (cfg : BusConfig)
  /-- `LINE(id, LOW)` or `LINE(id, HIGH)`. -/
  | line (id : LineId) (level : Level)
  /-- `XFER(b)`: one byte sent; the byte that comes back is discarded (R24). -/
  | xfer (b : Byte)
  /-- `TXN_END`. -/
  | txnEnd
  deriving DecidableEq, Repr

/-- `ev_kind` (10_state.md R22; D15, log 15). -/
def Event.kind : Event → BitVec 3
  | .txnBegin _ => 0#3
  | .line _ .low => 1#3
  | .xfer _ => 2#3
  | .line _ .high => 3#3
  | .txnEnd => 4#3

/-- `ev_data`: "the byte of an `XFER`, zero otherwise" (10_state.md R22; D15, log 15). -/
def Event.data : Event → Byte
  | .txnBegin _ => 0#8
  | .line _ _ => 0#8
  | .xfer b => b
  | .txnEnd => 0#8

/-- The line level after an event: the last `LINE` level (10_state.md R21). -/
def LineLevel.after (l : LineLevel) : Event → LineLevel
  | .txnBegin _ => l
  | .line _ .low => .low
  | .line _ .high => .high
  | .xfer _ => l
  | .txnEnd => l

/-- `txnOpen` after an event: whether the last of `TXN_BEGIN` and `TXN_END` was a `TXN_BEGIN` (10_state.md R21). -/
def txnOpenAfter (o : Bool) : Event → Bool
  | .txnBegin _ => true
  | .line _ _ => o
  | .xfer _ => o
  | .txnEnd => false

end Sys2Proof.Machine
end

