-- ==== Sys2Proof/Machine/Chip.lean ====
section
/-! DEFINITION. The environment model of the target chip (spec/20_memory.md R36 to R40). Not part of the block: no
meaning reads it. `free` is the supply of bytes the spec leaves unknown, `n` the next unused one. -/

namespace Sys2Proof.Machine

/-- What the chip has received in the current select-low interval (20_memory.md R37; log 18). -/
inductive Receiver where
  /-- Not selected. -/
  | idle
  /-- Selected; the bytes so far, first sent first. -/
  | collecting (bytes : List Byte)
  /-- Selected, in a frame that a reset or a power cycle cut off (70_reset_and_hazards.md R136). -/
  | truncated
  deriving DecidableEq, Repr

/-- The chip: the address it answers to, its five byte-wide registers (20_memory.md R36), its receiver. -/
structure Chip where
  address : Nibble
  attL : Byte
  attR : Byte
  gainL : Byte
  gainR : Byte
  state : Byte
  rx : Receiver
  deriving DecidableEq, Repr

/-- How many free values `Chip.powerOn` and `Chip.scramble` draw. -/
def Chip.registerCount : Nat := 5

/-- Every register holds an unknown byte (20_memory.md R40, 70_reset_and_hazards.md R136; U8, U12, log 19). -/
def Chip.scramble (free : Nat → Byte) (n : Nat) (c : Chip) : Chip :=
  { c with attL := free n, attR := free (n + 1), gainL := free (n + 2), gainR := free (n + 3), state := free (n + 4) }

/-- The registers after power-on: `state[7:5]` is 0b000, everything else unknown (20_memory.md R39; U15, log 19). -/
def Chip.powerOn (free : Nat → Byte) (n : Nat) (c : Chip) : Chip :=
  { c.scramble free n with state := free (n + 4) &&& 0x1F#8 }

/-- The chip after power-on, wired to answer at `address`; it draws free values 0 to 4. -/
def Chip.fresh (line : LineId) (address : Nibble) : Chip :=
  Chip.powerOn (Config.freeByte line) 0
    { address := address, attL := 0#8, attR := 0#8, gainL := 0#8, gainR := 0#8, state := 0#8, rx := .idle }

/-- A frame in progress is cut off: what closes it later is no frame of the block (R136; log 18). -/
def Receiver.cutOff : Receiver → Receiver
  | .idle => .idle
  | .collecting _ => .truncated
  | .truncated => .truncated

/-- The effect of the frame (`d`, `c`) on the chip, in the order of tests of 20_memory.md R37. Where R40 leaves the
outcome open (a right-channel address while the link flag is 1: the right register; a nibble other than the five: all
registers) the registers concerned take free values. -/
def Chip.deliver (m : CtrlMap) (free : Nat → Byte) (n : Nat) (d c : Byte) (k : Chip) : Chip × Nat :=
  if c.extractLsb' 0 4 ≠ k.address then (k, n)
  else if c.extractLsb' 4 4 = m.attL then
    (if k.state.getLsbD 7 then { k with attL := d, attR := d } else { k with attL := d }, n)
  else if c.extractLsb' 4 4 = m.attR then
    if k.state.getLsbD 7 then ({ k with attR := free n }, n + 1) else ({ k with attR := d }, n)
  else if c.extractLsb' 4 4 = m.gainL then
    (if k.state.getLsbD 6 then { k with gainL := d, gainR := d } else { k with gainL := d }, n)
  else if c.extractLsb' 4 4 = m.gainR then
    if k.state.getLsbD 6 then ({ k with gainR := free n }, n + 1) else ({ k with gainR := d }, n)
  else if c.extractLsb' 4 4 = m.state then ({ k with state := d }, n)
  else (k.scramble free n, n + Chip.registerCount)

/-- The end of a select-low interval: two bytes are a frame, data byte first (20_memory.md R34, R37); any other length
and a cut-off frame leave the registers unknown (R40, R136; log 18). -/
def Chip.endFrame (m : CtrlMap) (free : Nat → Byte) (n : Nat) (c : Chip) : Chip × Nat :=
  match c.rx with
  | .idle => (c, n)
  | .collecting [d, b] => ({ c with rx := .idle }).deliver m free n d b
  | .collecting _ => (({ c with rx := .idle }).scramble free n, n + Chip.registerCount)
  | .truncated => (({ c with rx := .idle }).scramble free n, n + Chip.registerCount)

/-- The start of a select-low interval; driving a low line low again starts nothing (log 18). -/
def Receiver.select : Receiver → Receiver
  | .idle => .collecting []
  | .collecting bs => .collecting bs
  | .truncated => .truncated

/-- A byte on the bus, taken only while selected (20_memory.md R37). -/
def Receiver.take (b : Byte) : Receiver → Receiver
  | .idle => .idle
  | .collecting bs => .collecting (bs ++ [b])
  | .truncated => .truncated

/-- The chip's reaction to one event on its bus (20_memory.md R37). -/
def Chip.hear (m : CtrlMap) (free : Nat → Byte) (n : Nat) (c : Chip) : Event → Chip × Nat
  | .txnBegin _ => (c, n)
  | .line _ .low => ({ c with rx := c.rx.select }, n)
  | .line _ .high => c.endFrame m free n
  | .xfer b => ({ c with rx := c.rx.take b }, n)
  | .txnEnd => (c, n)

end Sys2Proof.Machine
end

