-- ==== Sys2Proof/Machine/State.lean ====
section
/-! DEFINITION. The state of one instance, what can stop a step, and the state after reset. -/

namespace Sys2Proof.Machine

/-- What the environment does to the chip alone at one clock edge (70_reset_and_hazards.md R142; log 23). -/
inductive ChipUpset where
  /-- Nothing. -/
  | steady
  /-- The chip loses and regains power. -/
  | powerCycle
  /-- The chip is reset; the spec gives no value for its registers then. -/
  | reset
  deriving DecidableEq, Repr

/-- The inputs at one clock edge (spec/10_state.md R22 to R24, 70_reset_and_hazards.md R135), and what the environment
does to the chip at it (20_memory.md R47, 70_reset_and_hazards.md R142; log 23). -/
structure PortSample where
  /-- `rst`, synchronous, active-high (D8). -/
  rst : Bool
  /-- `DEVICE_ADDRESS`, sampled at reset (R18). -/
  strap : Nibble
  /-- `cmd_valid`. -/
  cmdValid : Bool
  /-- `cmd_word`. -/
  cmdWord : CmdWord
  /-- `ev_ready`. -/
  evReady : Bool
  /-- `rx_byte`, "sampled by nothing" (R24). -/
  rxByte : Byte
  /-- What happens to the chip alone at this edge (R142). -/
  chipUpset : ChipUpset
  /-- The event delivered at this edge does not reach the chip (R47, R142). -/
  busLoss : Bool
  deriving DecidableEq, Repr

/-- A sample with no reset, no command, the transport ready and nothing happening to the chip. -/
def PortSample.quiet : PortSample :=
  { rst := false, strap := 0#4, cmdValid := false, cmdWord := 0#36, evReady := true, rxByte := 0#8,
    chipUpset := .steady, busLoss := false }

/-- The state of one instance and of what it is wired to. -/
structure State where
  /-- The mirror of the chip's configuration register (10_state.md R13). -/
  stateRegister : Byte
  /-- The strapped address (10_state.md R18). -/
  deviceAddress : Nibble
  /-- The select line this instance owns (10_state.md R19). -/
  selectLine : LineId
  /-- Unset, or the cached bus parameters (10_state.md R20). -/
  busConfig : Option BusConfig
  /-- Events of the accepted command not yet emitted, in order (10_state.md R21). -/
  pending : List Event
  /-- The last level driven on `selectLine` (10_state.md R21). -/
  lineLevel : LineLevel
  /-- A `TXN_BEGIN` has been emitted and its `TXN_END` has not (10_state.md R21). -/
  txnOpen : Bool
  /-- The elaboration-time parameters (00_scope.md R6), written by nothing. -/
  params : Params
  /-- The environment model of the target chip (20_memory.md R36). -/
  chip : Chip
  /-- The port samples of the coming clock edges, oldest first (log 16). -/
  inputs : List PortSample
  /-- The events emitted since the last reset, oldest first: the observable behaviour (10_state.md R22; log 17). -/
  trace : List Event
  /-- The traces of earlier constructions, oldest first (log 17). -/
  earlierTraces : List (List Event)
  /-- The next unused free value (log 19). -/
  freeIndex : Nat
  deriving DecidableEq, Repr

/-- A fault. The block has none: "No error taxonomy", it raises no exception and detects nothing (60_exceptions.md R120,
R121, R125; log 25). So this type has no constructor and no step ends in a fault. -/
inductive Fault where
  deriving DecidableEq, Repr

/-- Why an instruction has no next state. -/
inductive Refusal where
  /-- Raised by an arm of `exec` whose instruction has no meaning yet (there is none). Safe. -/
  | notModelled (mnemonic : String)
  /-- Raised by every command other than INIT while `busConfig` is unset: "undefined behavior, not a checked error"
  (60_exceptions.md R124, 43_transfer_and_init.md R111 (c); U1, log 10). Safe. -/
  | beforeInit
  deriving DecidableEq, Repr

/-- The `free` supply of an instance: its own, by the select line it alone owns (log 19). -/
def State.free (s : State) : Nat → Byte := Config.freeByte s.selectLine

/-- Block and chip after power-up (60_exceptions.md R132): the block as 10_state.md R27 says, for the parameters, the
select line and the strap given, and the chip as 20_memory.md R39 says. -/
def State.powerUp (params : Params) (line : LineId) (strap : Nibble) : State :=
  { stateRegister := 0x20#8
    deviceAddress := strap
    selectLine := line
    busConfig := none
    pending := []
    lineLevel := .unconfigured
    txnOpen := false
    params := params
    chip := Chip.fresh line strap
    inputs := []
    trace := []
    earlierTraces := []
    freeIndex := Chip.registerCount }

/-- The machine right after reset (10_state.md R27), with the parameters, select line and strap of log 4, 5 and 20. -/
def State.reset : State :=
  State.powerUp Config.defaultParams Config.resetSelectLine Config.resetStrap

end Sys2Proof.Machine
end

