-- ==== Sys2Proof/Machine/Flags.lean ====
section
/-! DEFINITION. The bits of `stateRegister` (spec/10_state.md R13 to R17): the only values that steer a later command
(R12). -/

namespace Sys2Proof.Machine

/-- `r[i] <- b`: one bit written, the other seven unchanged (00_scope.md R8, 41_state_setters.md R86). -/
def withBit (i : Nat) (b : Bool) (r : Byte) : Byte :=
  (r &&& ~~~(1#8 <<< i)) ||| ((BitVec.ofBool b).setWidth 8 <<< i)

/-- `ATT_LINK`, bit 7 (10_state.md R16). -/
def State.attLink (s : State) : Bool := s.stateRegister.getLsbD 7

/-- `GAIN_LINK`, bit 6 (10_state.md R15). -/
def State.gainLink (s : State) : Bool := s.stateRegister.getLsbD 6

/-- `ZC_DISABLE`, bit 5 (10_state.md R14). -/
def State.zcDisable (s : State) : Bool := s.stateRegister.getLsbD 5

/-- Bit 7 `<- e`, "directly" (41_state_setters.md R82). -/
def withAttLink (e : Bool) (r : Byte) : Byte := withBit 7 e r

/-- Bit 6 `<- e`, "directly" (41_state_setters.md R84). -/
def withGainLink (e : Bool) (r : Byte) : Byte := withBit 6 e r

/-- Bit 5 `<- !e`, "inverted: hardware semantics are active-low for this feature" (41_state_setters.md R80). -/
def withZeroCrossing (e : Bool) (r : Byte) : Byte := withBit 5 (!e) r

end Sys2Proof.Machine
end

