-- ==== Sys2Proof/Machine/Operands.lean ====
section
/-! DEFINITION. The value encoders (spec/40_value_encoders.md R70 to R79): exact integer arithmetic, then the low eight
bits. -/

namespace Sys2Proof.Machine

/-- The magnitude bound of `EncAtt`, "223" (40_value_encoders.md R70). -/
def attClamp : Int := 223

/-- The "0x10 base offset" of `EncAtt` (40_value_encoders.md R70). -/
def attOffset : Int := 16

/-- The bound of `EncGain`, "63" (40_value_encoders.md R74). -/
def gainClamp : Int := 63

/-- The last step of both encoders: `x mod 256`, the low eight bits of the two's-complement form of `x`
(40_value_encoders.md R78 (e); D7, log 7). -/
def lowByte (x : Int) : Byte := BitVec.ofInt 8 x

/-- `EncAtt` (40_value_encoders.md R70). Negation, minimum and sum are on integers, so nothing wraps before the last
step (R73, R78; D6, log 6). -/
def encAtt (v : Operand) : Byte := lowByte (min (-v.toInt) attClamp + attOffset)

/-- `EncGain` (40_value_encoders.md R74): "clamp from above only; no lower clamp". -/
def encGain (g : Operand) : Byte := lowByte (min g.toInt gainClamp)

/-- The raw byte of MUTE, which passes through no encoder (42_level_setters.md R98). -/
def muteByte : Byte := 0x00#8

end Sys2Proof.Machine
end

