-- ==== Sys2Proof/Machine/Ops.lean ====
section
/-! DEFINITION. The operations the meanings share: the frame, queueing, emission, reset. There is no exception entry and
no return from one, because the block has neither (spec/60_exceptions.md R120, R125). -/

namespace Sys2Proof.Machine

/-- What a meaning answers. -/
abbrev Result := Host.Outcome State Fault Refusal

/-! ## The bus frame -/

/-- A control address as a byte: the nibble over four zero bits (20_memory.md R31). -/
def ctrlByte (ctrl : Nibble) : Byte := ctrl ++ 0#4

/-- `ctrl | zext_8(deviceAddress)` (30_encoding.md R56, 43_transfer_and_init.md R106). -/
def controlByte (ctrl address : Nibble) : Byte := ctrlByte ctrl ||| address.setWidth 8

/-- The six events of `Transfer(ctrl, data)`, in order (43_transfer_and_init.md R105, R107). -/
def frameEvents (cfg : BusConfig) (line : LineId) (address ctrl : Nibble) (data : Byte) : List Event :=
  [.txnBegin cfg, .line line .low, .xfer data, .xfer (controlByte ctrl address), .line line .high, .txnEnd]

/-- `Transfer(ctrl, data)` of this instance. -/
def State.frame (s : State) (cfg : BusConfig) (ctrl : Nibble) (data : Byte) : List Event :=
  frameEvents cfg s.selectLine s.deviceAddress ctrl data

/-! ## Commands -/

/-- `initDone`: `busConfig` is set (10_state.md R20). -/
def State.initDone (s : State) : Bool := s.busConfig.isSome

/-- Events of an accepted command join the queue (10_state.md R23). A step accepts a command only when the queue is
empty, so there they are the whole queue; elsewhere they wait behind the command before them (60_exceptions.md R130,
log 15). -/
def State.enqueue (es : List Event) (s : State) : State := { s with pending := s.pending ++ es }

/-- The precondition of every command but INIT: `initDone`, else `refuse(beforeInit)` (60_exceptions.md R124). What
follows gets the bus configuration. -/
def State.afterInit (s : State) (k : BusConfig → State) : Result :=
  match s.busConfig with
  | none => .refused .beforeInit
  | some cfg => .next (k cfg)

/-- The shape common to the three state-bit commands: the mirror takes the new byte, then one frame sends all of it to
`CTRL_STATE` (41_state_setters.md R86). -/
def State.writeStateByte (b : Byte) (s : State) : Result :=
  s.afterInit fun cfg => ({ s with stateRegister := b }).enqueue (s.frame cfg s.params.ctrl.state b)

/-- The shape common to SETVOL, SETGAIN and MUTE: left only when linked, else left, then right (42_level_setters.md
R90, R94, R98, R100). -/
def State.writeChannels (linked : Bool) (ctrlL ctrlR : Nibble) (dataL dataR : Byte) (s : State) : Result :=
  s.afterInit fun cfg =>
    s.enqueue (if linked then s.frame cfg ctrlL dataL else s.frame cfg ctrlL dataL ++ s.frame cfg ctrlR dataR)

/-- Accepted and retired with no effect: no state change, no event (30_encoding.md R60; D12, log 12). -/
def State.retire (s : State) : Result := s.afterInit fun _ => s

/-! ## Emission -/

/-- The chip hears one event on its bus (20_memory.md R37). The block is unchanged. -/
def State.overhear (e : Event) (s : State) : State :=
  { s with
    chip := (s.chip.hear s.params.ctrl s.free s.freeIndex e).1
    freeIndex := (s.chip.hear s.params.ctrl s.free s.freeIndex e).2 }

/-- A frame that another instance left unfinished on the bus is cut off for this chip too (log 22). -/
def State.cutOffFrame (s : State) : State :=
  { s with chip := { s.chip with rx := s.chip.rx.cutOff } }

/-- The event reaches the trace, and `lineLevel` and `txnOpen` follow it (10_state.md R21, R22). -/
def State.record (e : Event) (s : State) : State :=
  { s with
    trace := s.trace ++ [e]
    lineLevel := s.lineLevel.after e
    txnOpen := txnOpenAfter s.txnOpen e }

/-- One event delivered by this instance; `heard` says whether it reaches the chip (20_memory.md R47). -/
def State.emit (heard : Bool) (e : Event) (s : State) : State :=
  if heard then (s.overhear e).record e else s.record e

/-- Everything pending delivered, nothing lost: the end of the atomic step of 10_state.md R23. -/
def State.drain (s : State) : State :=
  s.pending.foldl (fun t e => t.emit true e) { s with pending := [] }

/-! ## Reset and upsets of the chip -/

/-- The block's part of a reset (70_reset_and_hazards.md R135, R136): every value of 10_state.md R27, no event. The
trace so far is archived (log 17). -/
def State.blockReset (strap : Nibble) (s : State) : State :=
  { s with
    stateRegister := 0x20#8
    deviceAddress := strap
    busConfig := none
    pending := []
    lineLevel := .unconfigured
    txnOpen := false
    trace := []
    earlierTraces := s.earlierTraces ++ [s.trace] }

/-- The chip's registers become unknown and a frame in progress is cut off: its block was reset with events unsent
(70_reset_and_hazards.md R136; U12, log 18), or the chip itself was reset (R142; log 23). -/
def State.scrambleChip (s : State) : State :=
  { s with
    chip := { s.chip.scramble s.free s.freeIndex with rx := s.chip.rx.cutOff }
    freeIndex := s.freeIndex + Chip.registerCount }

/-- The chip power-cycles (70_reset_and_hazards.md R142): its power-on registers (20_memory.md R39), and `rx` for its
receiver. -/
def State.powerUpChip (rx : Receiver) (s : State) : State :=
  { s with
    chip := { s.chip.powerOn s.free s.freeIndex with rx := rx }
    freeIndex := s.freeIndex + Chip.registerCount }

/-- A clock edge with `rst` high. Together with the chip's power cycle it is a power-up of both (60_exceptions.md R132);
alone it leaves the chip as it is, unless events were unsent (70_reset_and_hazards.md R136). A reset of the chip at the same
edge leaves it as a reset of the chip alone does (log 23). -/
def State.resetEdge (p : PortSample) (s : State) : State :=
  match p.chipUpset with
  | .powerCycle => (s.blockReset p.strap).powerUpChip .idle
  | .reset => (s.blockReset p.strap).scrambleChip
  | .steady => if s.pending = [] then s.blockReset p.strap else (s.blockReset p.strap).scrambleChip

/-- What happens to the chip alone at an edge without reset of the block (70_reset_and_hazards.md R142). Power-on
registers after a power cycle (20_memory.md R39); unknown ones after a reset of the chip, for which the spec gives no
values; a frame in progress is cut off by either. The last two are the model's choice (DESIGN CHOICE, log 23). -/
def State.upsetChip (p : PortSample) (s : State) : State :=
  match p.chipUpset with
  | .steady => s
  | .powerCycle => s.powerUpChip s.chip.rx.cutOff
  | .reset => s.scrambleChip

end Sys2Proof.Machine
end

