-- ==== Sys2Proof/Machine/Levels.lean ====
section
/-! DEFINITION. SETVOL, SETGAIN, MUTE and the pseudo-commands SETVOL1, SETGAIN1 (spec/42_level_setters.md). -/

namespace Sys2Proof.Machine

/-- SETVOL (42_level_setters.md R90). -/
def execSetvol (l r : Operand) (s : State) : Result :=
  s.writeChannels s.attLink s.params.ctrl.attL s.params.ctrl.attR (encAtt l) (encAtt r)

/-- SETGAIN (42_level_setters.md R94). -/
def execSetgain (l r : Operand) (s : State) : Result :=
  s.writeChannels s.gainLink s.params.ctrl.gainL s.params.ctrl.gainR (encGain l) (encGain r)

/-- MUTE (42_level_setters.md R98): the raw byte, not an encoded operand. -/
def execMute (s : State) : Result :=
  s.writeChannels s.attLink s.params.ctrl.attL s.params.ctrl.attR muteByte muteByte

/-- SETVOL1 `v` is SETVOL `v, v` (42_level_setters.md R92). -/
def execSetvol1 (v : Operand) (s : State) : Result :=
  s.writeChannels s.attLink s.params.ctrl.attL s.params.ctrl.attR (encAtt v) (encAtt v)

/-- SETGAIN1 `g` is SETGAIN `g, g` (42_level_setters.md R96; D14, log 14). -/
def execSetgain1 (g : Operand) (s : State) : Result :=
  s.writeChannels s.gainLink s.params.ctrl.gainL s.params.ctrl.gainR (encGain g) (encGain g)

end Sys2Proof.Machine
end

