-- ==== Sys2Proof/Machine/StateSetters.lean ====
section
/-! DEFINITION. SETZC, SETATTLINK, SETGAINLINK (spec/41_state_setters.md). -/

namespace Sys2Proof.Machine

/-- SETZC (41_state_setters.md R80). -/
def execSetzc (e : Bool) (s : State) : Result :=
  s.writeStateByte (withZeroCrossing e s.stateRegister)

/-- SETATTLINK (41_state_setters.md R82). -/
def execSetattlink (e : Bool) (s : State) : Result :=
  s.writeStateByte (withAttLink e s.stateRegister)

/-- SETGAINLINK (41_state_setters.md R84). -/
def execSetgainlink (e : Bool) (s : State) : Result :=
  s.writeStateByte (withGainLink e s.stateRegister)

end Sys2Proof.Machine
end

