-- ==== Sys2Proof/Machine/System.lean ====
section
/-! DEFINITION. INIT (spec/43_transfer_and_init.md) and the reserved opcodes (30_encoding.md R60). -/

namespace Sys2Proof.Machine

/-- INIT (43_transfer_and_init.md R110): `busConfig` is set and the select line is driven high (D9, log 9). A second
INIT re-writes the same `busConfig` and emits the event again, the hardware's choice of R111 (D11, log 11); that it is
outside the contract is said in Safety.lean. -/
def execInit (s : State) : Result :=
  .next (({ s with busConfig := some s.params.bus }).enqueue [.line s.selectLine .high])

/-- The reserved opcode 0x7 (30_encoding.md R60; D12, log 12). -/
def execReserved7 (s : State) : Result := s.retire

/-- A reserved opcode 0x8..0xF (30_encoding.md R60; D12, log 12): which one does not matter. -/
def execReserved8F (_op : Nibble) (s : State) : Result := s.retire

end Sys2Proof.Machine
end

