-- ==== Sys2Proof/Machine/Dispatch.lean ====
section
/-! DEFINITION. One arm per command. -/

namespace Sys2Proof.Machine

-- The acceptance of a command (spec/10_state.md R23): its state update, and its events queued.
def exec (i : Instr) (s : State) : Host.Outcome State Fault Refusal :=
  match i with
  | .init => Sys2Proof.Machine.execInit s
  | .setvol l r => Sys2Proof.Machine.execSetvol l r s
  | .setgain l r => Sys2Proof.Machine.execSetgain l r s
  | .mute => Sys2Proof.Machine.execMute s
  | .setzc e => Sys2Proof.Machine.execSetzc e s
  | .setattlink e => Sys2Proof.Machine.execSetattlink e s
  | .setgainlink e => Sys2Proof.Machine.execSetgainlink e s
  | .reserved7 => Sys2Proof.Machine.execReserved7 s
  | .reserved8F op => Sys2Proof.Machine.execReserved8F op s
  | .setvol1 v => Sys2Proof.Machine.execSetvol1 v s
  | .setgain1 g => Sys2Proof.Machine.execSetgain1 g s

end Sys2Proof.Machine
end

