-- ==== Sys2Proof/Machine/Ports.lean ====
section
/-! DEFINITION. The two ports and one clock edge (spec/10_state.md R22, R23). -/

namespace Sys2Proof.Machine

/-- `cmd_ready` "is 1 exactly when `pending` is empty" (10_state.md R23). -/
def State.cmdReady (s : State) : Bool := s.pending.isEmpty

/-- `ev_valid`: an event is offered (10_state.md R22). -/
def State.evValid (s : State) : Bool := !s.pending.isEmpty

/-- `ev_kind` while `ev_valid` is 1; the spec says no more of it otherwise than that it is never 5 to 7 (log 30). -/
def State.evKind (s : State) : Option (BitVec 3) := s.pending.head?.map Event.kind

/-- `ev_data`: "the byte of an `XFER`, zero otherwise" (10_state.md R22), so zero too while nothing is offered. -/
def State.evData (s : State) : Byte := (s.pending.head?.map Event.data).getD 0#8

/-- The block offers `e`, followed by `rest`: delivered if the transport is ready, else offered again; "the block waits
indefinitely" (10_state.md R22). -/
def State.offer (p : PortSample) (e : Event) (rest : List Event) (s : State) : State :=
  if p.evReady then ({ s with pending := rest }).emit (!p.busLoss) e else s

/-- An edge without reset: an event if one is pending, else a command if one is presented, else nothing
(10_state.md R22, R23). -/
def State.work (p : PortSample) (s : State) : Result :=
  match s.pending with
  | e :: rest => .next (s.offer p e rest)
  | [] => if p.cmdValid then exec (decode p.cmdWord) s else .next s

/-- One clock edge: reset wins (60_exceptions.md R123), else the block works. -/
def State.edge (p : PortSample) (s : State) : Result :=
  if p.rst then .next (s.resetEdge p) else (s.upsetChip p).work p

/-- The event delivered at an edge, if any (10_state.md R22). -/
def State.delivered (p : PortSample) (s : State) : Option Event :=
  if p.rst then none else if p.evReady then s.pending.head? else none

/-- Reset arrives inside this instance's transaction: "the frame in progress is left unfinished on the bus"
(70_reset_and_hazards.md R136). A reset of an instance that only waits for its turn leaves nothing unfinished. -/
def State.abandons (p : PortSample) (s : State) : Bool := p.rst && s.txnOpen

/-- The command accepted at an edge, if any: `cmd_valid` and `cmd_ready` both 1, and no reset (10_state.md R23,
60_exceptions.md R123). -/
def State.accepted (p : PortSample) (s : State) : Option Instr :=
  if p.rst then none else if p.cmdValid && s.cmdReady then some (decode p.cmdWord) else none

/-- The sample of the next edge: the head of `inputs`, quiet wires when none is listed (log 16). -/
def State.sample (s : State) : PortSample := s.inputs.headD .quiet

/-- The state once the sample of the next edge is read. -/
def State.sampled (s : State) : State := { s with inputs := s.inputs.tail }

/-- The sample that presents a command word to an idle block. -/
def PortSample.command (w : CmdWord) : PortSample :=
  { PortSample.quiet with cmdValid := true, cmdWord := w }

/-- The command word `w` is presented at the very next edge, to a block that has finished the command before it
(10_state.md R11; log 21). -/
def State.present (w : CmdWord) (s : State) : State :=
  { s.drain with inputs := PortSample.command w :: s.inputs }

end Sys2Proof.Machine
end

