-- ==== Sys2Proof/Machine/Step.lean ====
section
/-! DEFINITION. The step: one clock edge. -/

namespace Sys2Proof.Machine

/-- One clock edge, with the next port sample (spec/10_state.md R22, R23). -/
def step (s : State) : Host.Outcome State Fault Refusal :=
  s.sampled.edge s.sample

/-- The state whose very next step runs the command with bits `w` of spec/opcode_table.json. Commands are pushed by the
host, not fetched (10_state.md R11): the word is put on the command port of a block that is idle (log 21). -/
def State.withFetchWord (s : State) (nbits w : Nat) : State :=
  s.present (BitVec.ofNat 36 (w % 2 ^ nbits))

end Sys2Proof.Machine
end

