-- ==== Sys2Proof/Machine/Assembler.lean ====
section
/-! DEFINITION. The assembler of spec/30_encoding.md R63 to R65 (D1, D14; log 24). A line is a list of characters. -/

namespace Sys2Proof.Machine

/-- An operand as written, and the integer it stands for if it is a number. -/
structure AsmOperand where
  text : List Char
  deriving DecidableEq, Repr

/-- The hexadecimal digits that are letters, ten first. -/
def letterDigits : List Char := ['A', 'B', 'C', 'D', 'E', 'F']

/-- The value of a digit in base 16, a letter in either case (log 24); none for another character. -/
def digitValue (c : Char) : Option Nat :=
  if c.isDigit then some (c.toNat - 48) else (letterDigits.idxOf? c.toUpper).map (10 + ·)

/-- The number that digits of base `base` stand for, after `acc`. -/
def digitsValue (base : Nat) (acc : Nat) : List Char → Option Nat
  | [] => some acc
  | c :: cs =>
    match digitValue c with
    | none => none
    | some d => if d < base then digitsValue base (acc * base + d) cs else none

/-- One digit or more. -/
def numeral (base : Nat) (cs : List Char) : Option Nat :=
  if cs.isEmpty then none else digitsValue base 0 cs

/-- "operands are decimal integers with an optional minus sign, or `0x` hexadecimal" (30_encoding.md R63). -/
def AsmOperand.value (o : AsmOperand) : Option Int :=
  match o.text with
  | '0' :: 'x' :: cs => (numeral 16 cs).map Int.ofNat
  | '-' :: cs => (numeral 10 cs).map fun n => -Int.ofNat n
  | cs => (numeral 10 cs).map Int.ofNat

/-- `sext_16(v)`; "the assembler rejects `l`, `r` outside -32768..32767" (30_encoding.md R63). -/
def signedOperand (v : Int) : Option Operand :=
  if -32768 ≤ v ∧ v ≤ 32767 then some (BitVec.ofInt 16 v) else none

/-- A signed operand as written. -/
def AsmOperand.signed (o : AsmOperand) : Option Operand :=
  o.value.bind signedOperand

/-- "a Boolean operand is `0` or `1`" (30_encoding.md R63). -/
def AsmOperand.bool (o : AsmOperand) : Option Bool :=
  if o.text = ['0'] then some false else if o.text = ['1'] then some true else none

/-- The table of 30_encoding.md R63 and the pseudo-commands of R64, R65; none where the mnemonic is unknown, the number
of operands is wrong or an operand is rejected. -/
def assembleCommand (mnemonic : List Char) (operands : List AsmOperand) : Option Instr :=
  if mnemonic = ['I', 'N', 'I', 'T'] then
    match operands with | [] => some .init | _ => none
  else if mnemonic = ['M', 'U', 'T', 'E'] then
    match operands with | [] => some .mute | _ => none
  else if mnemonic = ['S', 'E', 'T', 'V', 'O', 'L'] then
    match operands with
    | [l, r] => l.signed.bind fun x => r.signed.map fun y => .setvol x y
    | _ => none
  else if mnemonic = ['S', 'E', 'T', 'G', 'A', 'I', 'N'] then
    match operands with
    | [l, r] => l.signed.bind fun x => r.signed.map fun y => .setgain x y
    | _ => none
  else if mnemonic = ['S', 'E', 'T', 'Z', 'C'] then
    match operands with | [e] => e.bool.map .setzc | _ => none
  else if mnemonic = ['S', 'E', 'T', 'A', 'T', 'T', 'L', 'I', 'N', 'K'] then
    match operands with | [e] => e.bool.map .setattlink | _ => none
  else if mnemonic = ['S', 'E', 'T', 'G', 'A', 'I', 'N', 'L', 'I', 'N', 'K'] then
    match operands with | [e] => e.bool.map .setgainlink | _ => none
  else if mnemonic = ['S', 'E', 'T', 'V', 'O', 'L', '1'] then
    match operands with | [v] => v.signed.map .setvol1 | _ => none
  else if mnemonic = ['S', 'E', 'T', 'G', 'A', 'I', 'N', '1'] then
    match operands with | [g] => g.signed.map .setgain1 | _ => none
  else none

/-- Blanks and tabs separate (log 24). -/
def isBlank (c : Char) : Bool := c = ' ' || c = '\t'

/-- A text without the blanks around it. -/
def trimBlanks (cs : List Char) : List Char :=
  ((cs.dropWhile isBlank).reverse.dropWhile isBlank).reverse

/-- The operands of a command: separated by commas, none in an empty text (30_encoding.md R63). -/
def operandsOf (cs : List Char) : List AsmOperand :=
  if (trimBlanks cs).isEmpty then [] else (cs.splitOn ',').map fun t => ⟨trimBlanks t⟩

/-- One line: "`;` starts a comment"; a line with nothing before the comment holds no command. That blanks may
stand in front of the mnemonic and after the last operand is the model's choice (DESIGN CHOICE, log 24). The outer option
is none where the line is rejected. -/
def assembleLine (line : List Char) : Option (Option Instr) :=
  let body := trimBlanks (line.takeWhile fun c => c != ';')
  if body.isEmpty then some none
  else
    (assembleCommand (body.takeWhile fun c => !isBlank c) (operandsOf (body.dropWhile fun c => !isBlank c))).map some

/-- The command words of a program, one command per line (30_encoding.md R63). -/
def assemble : List (List Char) → Option (List CmdWord)
  | [] => some []
  | line :: rest =>
    match assembleLine line, assemble rest with
    | some (some i), some ws => some (encode i :: ws)
    | some none, some ws => some ws
    | _, _ => none

end Sys2Proof.Machine
end

