-- ==== Sys2Proof/Machine/Bus.lean ====
section
/-! DEFINITION. Several instances on one bus (spec/20_memory.md R45, 60_exceptions.md R129, 70_reset_and_hazards.md
R148). The host's step is one instance; this file is beside it. -/

namespace Sys2Proof.Machine

/-- The instances sharing a bus, each with its own chip, and the events on the bus so far, each with the number of the
instance that delivered it. -/
structure Bus where
  nodes : List State
  log : List (Nat × Event)
  deriving DecidableEq, Repr

/-- "Two instances must not be given the same `selectLine`" (70_reset_and_hazards.md R148, 10_state.md R19): what the
wiring of a bus owes, kept by every step. Under it the chips of a bus draw different free values (log 19). -/
def Bus.DistinctLines (b : Bus) : Prop := (b.nodes.map State.selectLine).Nodup

/-- A transaction of an instance other than `k` is open. -/
def Bus.heldAgainst (b : Bus) (k : Nat) : Bool :=
  b.nodes.zipIdx.any fun n => n.2 != k && n.1.txnOpen

/-- The transport's exclusion (20_memory.md R43, R45): while another transaction is open it takes no event of `k`. -/
def Bus.grant (b : Bus) (k : Nat) (p : PortSample) : PortSample :=
  { p with evReady := p.evReady && !b.heldAgainst k }

/-- What an edge of one instance does to another's chip: it hears the event delivered, and ignores frames for other
addresses (20_memory.md R37). What a reset in the middle of a frame does to the chips of other instances the spec leaves
open (70_reset_and_hazards.md R136): the frame is cut off for them as for its own chip, so that their registers are
unknown once the line goes high (DESIGN CHOICE, log 22). A reset outside a transaction of the instance does nothing to
them, whatever frame of another instance they are hearing. -/
def State.bystand (abandoned : Bool) (delivered : Option Event) (s : State) : State :=
  if abandoned then s.cutOffFrame
  else
    match delivered with
    | none => s
    | some e => s.overhear e

/-- Instance `k` becomes `t`, every other chip on the bus takes part, and an event delivered is logged. -/
def Bus.settle (b : Bus) (k : Nat) (t : State) (abandoned : Bool) (delivered : Option Event) : Bus :=
  { nodes := (b.nodes.map (State.bystand abandoned delivered)).set k t
    log := b.log ++ delivered.toList.map fun e => (k, e) }

/-- An edge of instance `k`, in state `s`, with the sample `p`. -/
def Bus.edge (b : Bus) (k : Nat) (s : State) (p : PortSample) : Host.Outcome Bus Fault Refusal :=
  match s.edge p with
  | .next t => .next (b.settle k t (s.abandons p) (s.delivered p))
  | .fault f => .fault f
  | .refused r => .refused r

/-- Instance `k` takes one clock edge. Which instance goes next is free: "events of different instances may interleave in
any order except" inside a transaction (20_memory.md R45; D20, log 22). -/
def Bus.step (k : Nat) (b : Bus) : Host.Outcome Bus Fault Refusal :=
  match b.nodes[k]? with
  | none => .next b
  | some s => b.edge k s.sampled (b.grant k s.sample)

end Sys2Proof.Machine
end

