-- ==== Sys2Proof/Safety.lean ====
section
/-! DEFINITION. What a run must respect and what holds in every state of one: the contract of the host, the invariants,
the shape of a trace, the agreement of mirror and chip. -/

namespace Sys2Proof.Machine

/-! ## The contract of the host -/

/-- The command respects the contract in `s` (spec/70_reset_and_hazards.md R140, R144): INIT first and once
(43_transfer_and_init.md R111), no reserved opcode (93_implementation_defined.md U6). Where the spec advises a model to
refuse, this says so, while `exec` takes the hardware's choice (log 11, 12). -/
def State.inContract (s : State) : Instr → Bool
  | .init => !s.initDone
  | .setvol _ _ => s.initDone
  | .setgain _ _ => s.initDone
  | .mute => s.initDone
  | .setzc _ => s.initDone
  | .setattlink _ => s.initDone
  | .setgainlink _ => s.initDone
  | .reserved7 => false
  | .reserved8F _ => false
  | .setvol1 _ => s.initDone
  | .setgain1 _ => s.initDone

/-- The command that the next edge accepts, if there is one, respects the contract. -/
def State.nextInContract (s : State) : Bool :=
  match s.sampled.accepted s.sample with
  | none => true
  | some i => s.inContract i

/-- A sample in which nothing happens to the chip or to the frame on its way: no reset of
block or chip, no power cycle, no loss ("the bus
transport is assumed reliable", 10_state.md R25, 20_memory.md R47). -/
def PortSample.clean (p : PortSample) : Bool :=
  !p.rst && (p.chipUpset == .steady) && !p.busLoss

/-- A clean sample at which the transport takes the event it is offered (fairness, 70_reset_and_hazards.md R149). -/
def PortSample.calm (p : PortSample) : Bool :=
  p.clean && p.evReady

/-- "it is over when `pending` is empty" (70_reset_and_hazards.md R150). -/
abbrev State.atRest (s : State) : Prop := s.pending = []

/-! ## Invariants -/

/-- The events of one item of a trace: the `LINE(sel, HIGH)` of an INIT, or the frame that writes byte `f.2` to control
address `f.1`. -/
def State.itemEvents (s : State) : Option (Nibble × Byte) → List Event
  | none => [.line s.selectLine .high]
  | some f => frameEvents s.params.bus s.selectLine s.deviceAddress f.1 f.2

/-- What holds in every state of every run, whatever the host, the transport and the chip do. -/
structure State.Inv (s : State) : Prop where
  /-- Bits 4:0 "unused, must remain 0" (10_state.md R17). -/
  reserved_zero : s.stateRegister &&& 0x1F#8 = 0#8
  /-- `pending` holds at most 12 events (10_state.md R21). -/
  pending_le : s.pending.length ≤ 12
  /-- `busConfig` is unset or the parameters (10_state.md R20). -/
  config : s.busConfig = none ∨ s.busConfig = some s.params.bus
  /-- Before INIT nothing is emitted or pending; after it something is (43_transfer_and_init.md R114). -/
  started : s.initDone = true ↔ s.trace ++ s.pending ≠ []
  /-- `lineLevel` is a function of the events emitted (10_state.md R21). -/
  lineLevel_eq : s.lineLevel = s.trace.foldl LineLevel.after .unconfigured
  /-- `txnOpen` is a function of the events emitted (10_state.md R21). -/
  txnOpen_eq : s.txnOpen = s.trace.foldl txnOpenAfter false
  /-- Emitted and pending events together are whole items, frames to the five addresses only (R107, R114, R61). -/
  items : ∃ is : List (Option (Nibble × Byte)),
    (∀ f, some f ∈ is → s.params.ctrl.holds f.1) ∧ s.trace ++ s.pending = is.flatMap s.itemEvents

/-- "the whole event trace of an instance from reset, under commands that respect the contract, is `H F F F ...`"
(43_transfer_and_init.md R114); nothing before INIT. -/
def State.FramedTrace (s : State) : Prop :=
  (s.initDone = false ∧ s.trace ++ s.pending = []) ∨
  (s.initDone = true ∧ ∃ fs : List (Nibble × Byte),
    (∀ f ∈ fs, s.params.ctrl.holds f.1) ∧
    s.trace ++ s.pending = .line s.selectLine .high :: fs.flatMap fun f => s.itemEvents (some f))

/-! ## Mirror and chip -/

/-- Once everything pending is delivered, the chip of this instance holds the mirror's byte (10_state.md R25). -/
structure State.Mirrored (s : State) : Prop where
  /-- The chip answers to this instance. -/
  address : s.chip.address = s.deviceAddress
  /-- "the five are pairwise distinct" (00_scope.md R6). -/
  distinct : s.params.ctrl.distinct
  /-- The chip will hold the mirror's byte. -/
  agrees : s.drain.chip.state = s.stateRegister
  /-- The chip will be deselected. -/
  idle : s.drain.chip.rx = .idle

/-! ## What the block can see -/

/-- A port sample without what the block does not sample: the returned byte (10_state.md R24) and what happens to the
chip. -/
def PortSample.blockOnly (p : PortSample) : PortSample :=
  { p with rxByte := 0#8, chipUpset := .steady, busLoss := false }

/-- A chip that says nothing. -/
def Chip.blank : Chip :=
  { address := 0#4, attL := 0#8, attR := 0#8, gainL := 0#8, gainR := 0#8, state := 0#8, rx := .idle }

/-- A state without the chip and what only the chip sees. -/
def State.blockOnly (s : State) : State :=
  { s with chip := .blank, freeIndex := 0, inputs := s.inputs.map PortSample.blockOnly }

/-- An outcome without the chip. -/
def Result.blockOnly : Result → Result
  | .next s => .next s.blockOnly
  | .fault f => .fault f
  | .refused r => .refused r

/-! ## Sequences of commands -/

/-- Commands accepted one after another in the atomic view of 10_state.md R23: each one's events are delivered before the
next is accepted. -/
def State.execAll : List Instr → State → Result
  | [], s => .next s
  | i :: is, s =>
    match exec i s with
    | .next t => State.execAll is t.drain
    | .fault f => .fault f
    | .refused r => .refused r

/-! ## Several instances -/

/-- At most one instance has a transaction open (20_memory.md R45). -/
def Bus.Exclusive (b : Bus) : Prop :=
  ∀ (j k : Nat) (s t : State), b.nodes[j]? = some s → b.nodes[k]? = some t → s.txnOpen = true → t.txnOpen = true → j = k

end Sys2Proof.Machine
end

