-- ==== Sys2Proof/Certificates/Slice0/Obligations.lean ====
section
/-! DEFINITION. The statements for the provers. Each docstring names what it formalises; where a clause rests on a decision
of the spec's own (D<n> of spec/92_eei_decisions.md) or on a choice of the model, it says so. -/

open Sys2Proof Sys2Proof.Machine

/-! ## Encoding -/

/-- Words of spec/95_test_vectors.md, one and more per family, decode to their commands; the two pseudo-commands have the
words given there. The command word is the spec's own decision D1 (log 1). -/
def Obligations.SpecWordsDecodeToTheirCommands : Prop :=
  decode 0x012345678#36 = .init ∧
  decode 0x1FFD8FFC4#36 = .setvol (BitVec.ofInt 16 (-40)) (BitVec.ofInt 16 (-60)) ∧
  decode 0x100108000#36 = .setvol 16#16 (BitVec.ofInt 16 (-32768)) ∧
  decode 0x2FF007FFF#36 = .setgain (BitVec.ofInt 16 (-256)) 32767#16 ∧
  decode 0x3ABCD1234#36 = .mute ∧
  decode 0x4FFFFFFFF#36 = .setzc true ∧
  decode 0x5FFFE1234#36 = .setattlink false ∧
  decode 0x600010000#36 = .setgainlink true ∧
  decode 0x700000000#36 = .reserved7 ∧
  decode 0xF00000000#36 = .reserved8F 0xF#4 ∧
  encode (.setvol1 (BitVec.ofInt 16 (-12))) = 0x1FFF4FFF4#36 ∧
  encode (.setgain1 20#16) = 0x200140014#36

/-- Decoding the word of any well-formed command gives the command back, a pseudo-command as what it expands to
(30_encoding.md R63 to R66; the word is D1, log 1). -/
def Obligations.DecodingAnEncodedCommandGivesItsExpansion : Prop :=
  ∀ i : Instr, i.wellFormed = true → decode (encode i) = i.expand

/-- Encoding what a word decodes to gives the word with its ignored bits cleared; every word decodes to a well-formed
command that is no pseudo-command (30_encoding.md R54, R66; D1, D21, log 1, 13). -/
def Obligations.EncodingADecodedWordClearsItsIgnoredBits : Prop :=
  ∀ w : CmdWord,
    encode (decode w) = w &&& usedBits w ∧ (decode w).wellFormed = true ∧ (decode w).expand = decode w

/-- "Two command words that differ only in ignored bits are the same command" (30_encoding.md R54; D21, log 13). -/
def Obligations.IgnoredBitsDoNotMatter : Prop :=
  ∀ w v : CmdWord, w &&& usedBits w = v &&& usedBits w → decode w = decode v

/-- A word matches a decodable row of spec/opcode_table.json exactly when it decodes to that row's command, so every word
matches exactly one row (30_encoding.md R66; D1, log 1). -/
def Obligations.DecodingAgreesWithTheOpcodeTable : Prop :=
  ∀ w : CmdWord,
    (∀ row ∈ opcodeRows, (w &&& row.mask = row.pattern ↔ (decode w).mnemonic = row.mnemonic)) ∧
    ∃ row ∈ opcodeRows, w &&& row.mask = row.pattern

/-- Both operands of SETVOL and SETGAIN are read from the word as two's complement: `A[14:0] - 32768 * A[15]`, where `A`
is bits 31:16, and the same of `B`, bits 15:0 (30_encoding.md R50, R52; the layout is D1, the width D2, log 1, 2). -/
def Obligations.OperandIsTwosComplement : Prop :=
  ∀ w : CmdWord, w.extractLsb' 32 4 = 0x1#4 ∨ w.extractLsb' 32 4 = 0x2#4 →
    ∃ l r : Operand,
      (w.extractLsb' 32 4 = 0x1#4 → decode w = .setvol l r) ∧
      (w.extractLsb' 32 4 = 0x2#4 → decode w = .setgain l r) ∧
      l.toInt = ((w.extractLsb' 16 15).toNat : Int) - 32768 * (if w.getLsbD 31 then 1 else 0) ∧
      r.toInt = ((w.extractLsb' 0 15).toNat : Int) - 32768 * (if w.getLsbD 15 then 1 else 0)

/-- The assembler's table: a command with signed operands in -32768..32767 gets the word that decodes to those integers, a
signed operand outside is rejected, a Boolean operand is `0` or `1`, INIT and MUTE take none, a wrong number of operands is
rejected, and the words of the commands without a signed operand are those of the table (30_encoding.md R63 to R65; D1,
D14; the form of an operand and the number of operands are log 24). -/
def Obligations.AssemblerBuildsTheWordsOfTheTable : Prop :=
  (∀ (a b : AsmOperand) (x y : Int), a.value = some x → b.value = some y →
    -32768 ≤ x → x ≤ 32767 → -32768 ≤ y → y ≤ 32767 →
      ∃ l r : Operand, l.toInt = x ∧ r.toInt = y ∧
        (assembleCommand ['S', 'E', 'T', 'V', 'O', 'L'] [a, b]).map encode = some (packWord 0x1#4 l r) ∧
        (assembleCommand ['S', 'E', 'T', 'G', 'A', 'I', 'N'] [a, b]).map encode = some (packWord 0x2#4 l r) ∧
        (assembleCommand ['S', 'E', 'T', 'V', 'O', 'L', '1'] [a]).map encode = some (packWord 0x1#4 l l) ∧
        (assembleCommand ['S', 'E', 'T', 'G', 'A', 'I', 'N', '1'] [a]).map encode = some (packWord 0x2#4 l l)) ∧
  (∀ (a b : AsmOperand) (x : Int), a.value = some x → (x < -32768 ∨ 32767 < x) →
    assembleCommand ['S', 'E', 'T', 'V', 'O', 'L'] [a, b] = none ∧
    assembleCommand ['S', 'E', 'T', 'V', 'O', 'L'] [b, a] = none ∧
    assembleCommand ['S', 'E', 'T', 'G', 'A', 'I', 'N'] [a, b] = none ∧
    assembleCommand ['S', 'E', 'T', 'G', 'A', 'I', 'N'] [b, a] = none ∧
    assembleCommand ['S', 'E', 'T', 'V', 'O', 'L', '1'] [a] = none ∧
    assembleCommand ['S', 'E', 'T', 'G', 'A', 'I', 'N', '1'] [a] = none) ∧
  (∀ (a : AsmOperand) (i : Instr), assembleCommand ['S', 'E', 'T', 'Z', 'C'] [a] = some i ↔
    (a.text = ['0'] ∧ i = .setzc false) ∨ (a.text = ['1'] ∧ i = .setzc true)) ∧
  (∀ (a : AsmOperand) (i : Instr),
    assembleCommand ['S', 'E', 'T', 'A', 'T', 'T', 'L', 'I', 'N', 'K'] [a] = some i ↔
    (a.text = ['0'] ∧ i = .setattlink false) ∨ (a.text = ['1'] ∧ i = .setattlink true)) ∧
  (∀ (a : AsmOperand) (i : Instr),
    assembleCommand ['S', 'E', 'T', 'G', 'A', 'I', 'N', 'L', 'I', 'N', 'K'] [a] = some i ↔
    (a.text = ['0'] ∧ i = .setgainlink false) ∨ (a.text = ['1'] ∧ i = .setgainlink true)) ∧
  assembleCommand ['I', 'N', 'I', 'T'] [] = some .init ∧
  assembleCommand ['M', 'U', 'T', 'E'] [] = some .mute ∧
  (∀ ops : List AsmOperand,
    (ops ≠ [] → assembleCommand ['I', 'N', 'I', 'T'] ops = none ∧ assembleCommand ['M', 'U', 'T', 'E'] ops = none) ∧
    (ops.length ≠ 1 →
      assembleCommand ['S', 'E', 'T', 'Z', 'C'] ops = none ∧
      assembleCommand ['S', 'E', 'T', 'A', 'T', 'T', 'L', 'I', 'N', 'K'] ops = none ∧
      assembleCommand ['S', 'E', 'T', 'G', 'A', 'I', 'N', 'L', 'I', 'N', 'K'] ops = none ∧
      assembleCommand ['S', 'E', 'T', 'V', 'O', 'L', '1'] ops = none ∧
      assembleCommand ['S', 'E', 'T', 'G', 'A', 'I', 'N', '1'] ops = none) ∧
    (ops.length ≠ 2 →
      assembleCommand ['S', 'E', 'T', 'V', 'O', 'L'] ops = none ∧
      assembleCommand ['S', 'E', 'T', 'G', 'A', 'I', 'N'] ops = none)) ∧
  encode .init = packWord 0x0#4 0x0000#16 0x0000#16 ∧
  encode .mute = packWord 0x3#4 0x0000#16 0x0000#16 ∧
  (∀ e : Bool,
    encode (.setzc e) = packWord 0x4#4 (if e then 0x0001#16 else 0x0000#16) 0x0000#16 ∧
    encode (.setattlink e) = packWord 0x5#4 (if e then 0x0001#16 else 0x0000#16) 0x0000#16 ∧
    encode (.setgainlink e) = packWord 0x6#4 (if e then 0x0001#16 else 0x0000#16) 0x0000#16)

/-! ## Value encoders -/

/-- 40_value_encoders.md R71: on -223..0 the byte is `min(-v, 223) + 16`, that is `16 - v`, in 0x10..0xEF, strictly
increasing as `v` decreases; every operand below -223 gives the byte of -223. -/
def Obligations.AttenuationByteOnTheDocumentedRange : Prop :=
  (∀ v : Operand, -223 ≤ v.toInt → v.toInt ≤ 0 →
    ((encAtt v).toNat : Int) = min (-v.toInt) 223 + 16 ∧
    ((encAtt v).toNat : Int) = 16 - v.toInt ∧
    0x10 ≤ (encAtt v).toNat ∧ (encAtt v).toNat ≤ 0xEF) ∧
  (∀ v w : Operand, -223 ≤ w.toInt → w.toInt < v.toInt → v.toInt ≤ 0 → (encAtt v).toNat < (encAtt w).toNat) ∧
  encAtt 0#16 = 0b00010000#8 ∧
  encAtt (BitVec.ofInt 16 (-223)) = 0b11101111#8 ∧
  (∀ v : Operand, v.toInt < -223 → encAtt v = 0xEF#8 ∧ encAtt v = encAtt (BitVec.ofInt 16 (-223)))

/-- 40_value_encoders.md R72: no clamp from below; a positive operand gives `(16 - v) mod 256`. That the byte is the low
eight bits is the spec's own decision D7 (log 7). -/
def Obligations.AttenuationByteOfPositiveOperands : Prop :=
  (∀ v : Operand, 0 < v.toInt → ((encAtt v).toNat : Int) = (16 - v.toInt) % 256) ∧
  (∀ v : Operand, 1 ≤ v.toInt → v.toInt ≤ 16 → ((encAtt v).toNat : Int) = 16 - v.toInt) ∧
  encAtt 17#16 = 0xFF#8 ∧ encAtt 272#16 = 0x00#8 ∧ encAtt 32767#16 = 0x11#8

/-- 40_value_encoders.md R75: on 0..63 the byte is the operand, above 63 it is 63. -/
def Obligations.GainByteOnTheDocumentedRange : Prop :=
  (∀ g : Operand, 0 ≤ g.toInt → g.toInt ≤ 63 → ((encGain g).toNat : Int) = g.toInt) ∧
  (∀ g : Operand, 63 < g.toInt → encGain g = 0x3F#8 ∧ encGain g = encGain 63#16)

/-- 40_value_encoders.md R76: a negative operand passes through, `g mod 256`. That the byte is the low eight bits is the
spec's own decision D7 (log 7). -/
def Obligations.GainByteOfNegativeOperands : Prop :=
  (∀ g : Operand, g.toInt < 0 → ((encGain g).toNat : Int) = g.toInt % 256) ∧
  encGain (BitVec.ofInt 16 (-1)) = 0xFF#8 ∧ encGain (BitVec.ofInt 16 (-64)) = 0xC0#8 ∧
  encGain (BitVec.ofInt 16 (-193)) = 0x3F#8 ∧ encGain (BitVec.ofInt 16 (-256)) = 0x00#8 ∧
  encGain (BitVec.ofInt 16 (-32768)) = 0x00#8

/-- 40_value_encoders.md R79 (derived there): the two periods, and the operands whose attenuation byte is MUTE's 0x00:
16 + 256 k for k = 0..127, none in -223..0. It rests on D6 and D7 (log 6, 7). -/
def Obligations.EncoderPeriodsAndTheZeroByte : Prop :=
  (∀ v w : Operand, w.toInt = v.toInt - 256 → 1 ≤ w.toInt → encAtt v = encAtt w) ∧
  (∀ g f : Operand, f.toInt = g.toInt - 256 → g.toInt ≤ -1 → encGain g = encGain f) ∧
  (∀ v : Operand, encAtt v = muteByte ↔ ∃ k : Nat, k < 128 ∧ v.toInt = 16 + 256 * (k : Int)) ∧
  (∀ v : Operand, -223 ≤ v.toInt → v.toInt ≤ 0 → encAtt v ≠ muteByte)

/-! ## The frame -/

/-- 43_transfer_and_init.md R106: the control byte has the nibble of `ctrl` in bits 7:4 and the device address in bits
3:0; OR, addition and concatenation give the same byte. -/
def Obligations.ControlByteIsNibbleAndAddress : Prop :=
  ∀ ctrl address : Nibble,
    controlByte ctrl address = ctrlByte ctrl ||| address.setWidth 8 ∧
    (controlByte ctrl address).extractLsb' 4 4 = ctrl ∧
    (controlByte ctrl address).extractLsb' 0 4 = address ∧
    controlByte ctrl address = ctrlByte ctrl + address.setWidth 8 ∧
    controlByte ctrl address = ctrl ++ address ∧
    controlByte ctrl 0x0#4 = ctrlByte ctrl ∧
    (controlByte ctrl 0xF#4).extractLsb' 0 4 = 0xF#4

/-- 43_transfer_and_init.md R105: a transfer is these six events, the data byte before the control byte; delivering them
appends them to the trace, leaves the line high and no transaction open, and changes nothing else of the block. -/
def Obligations.TransferIsSixEventsDataByteFirst : Prop :=
  ∀ (s : State) (cfg : BusConfig) (ctrl : Nibble) (data : Byte),
    s.frame cfg ctrl data =
      [.txnBegin cfg, .line s.selectLine .low, .xfer data, .xfer (ctrlByte ctrl ||| s.deviceAddress.setWidth 8),
        .line s.selectLine .high, .txnEnd] ∧
    (s.pending = s.frame cfg ctrl data →
      s.drain = { s with
        pending := []
        trace := s.trace ++ s.frame cfg ctrl data
        lineLevel := .high
        txnOpen := false
        chip := s.drain.chip
        freeIndex := s.drain.freeIndex })

/-! ## The commands

A command is accepted by `exec`: its state update is applied and its events join the queue, in the order they will be
emitted (10_state.md R23). The equation for the next state says that everything else is as before: every other register,
the trace, and the chip's bytes. The opcodes and operand places that these statements repeat from the rules are the spec's
own decisions D1, D2 and D13 (log 1, 2, 13), the refusal before INIT is D10 (log 10). -/

/-- 41_state_setters.md R80: SETZC writes bit 5 with the inverse of its operand, no other bit, and sends the updated byte
to `CTRL_STATE`; before INIT it is `refuse(beforeInit)`. -/
def Obligations.SetzcWritesBitFiveInvertedAndSendsTheByte : Prop :=
  ∀ (e : Bool) (s : State),
    opField (encode (.setzc e)) = 0x4#4 ∧ enabledBit (encode (.setzc e)) = e ∧
    (s.busConfig = none → exec (.setzc e) s = .refused .beforeInit) ∧
    ∀ cfg, s.busConfig = some cfg →
      ∃ t, exec (.setzc e) s = .next t ∧
        t.stateRegister.getLsbD 5 = !e ∧
        (∀ i, i ≠ 5 → t.stateRegister.getLsbD i = s.stateRegister.getLsbD i) ∧
        t = { s with
          stateRegister := t.stateRegister
          pending := s.pending ++
            [.txnBegin cfg, .line s.selectLine .low, .xfer t.stateRegister,
              .xfer (controlByte s.params.ctrl.state s.deviceAddress), .line s.selectLine .high, .txnEnd] }

/-- 41_state_setters.md R82: SETATTLINK writes bit 7 with its operand, no other bit, and sends the updated byte to
`CTRL_STATE`; before INIT it is `refuse(beforeInit)`. -/
def Obligations.SetattlinkWritesBitSevenAndSendsTheByte : Prop :=
  ∀ (e : Bool) (s : State),
    opField (encode (.setattlink e)) = 0x5#4 ∧ enabledBit (encode (.setattlink e)) = e ∧
    (s.busConfig = none → exec (.setattlink e) s = .refused .beforeInit) ∧
    ∀ cfg, s.busConfig = some cfg →
      ∃ t, exec (.setattlink e) s = .next t ∧
        t.stateRegister.getLsbD 7 = e ∧
        (∀ i, i ≠ 7 → t.stateRegister.getLsbD i = s.stateRegister.getLsbD i) ∧
        t = { s with
          stateRegister := t.stateRegister
          pending := s.pending ++
            [.txnBegin cfg, .line s.selectLine .low, .xfer t.stateRegister,
              .xfer (controlByte s.params.ctrl.state s.deviceAddress), .line s.selectLine .high, .txnEnd] }

/-- 41_state_setters.md R84: SETGAINLINK writes bit 6 with its operand, no other bit, and sends the updated byte to
`CTRL_STATE`; before INIT it is `refuse(beforeInit)`. -/
def Obligations.SetgainlinkWritesBitSixAndSendsTheByte : Prop :=
  ∀ (e : Bool) (s : State),
    opField (encode (.setgainlink e)) = 0x6#4 ∧ enabledBit (encode (.setgainlink e)) = e ∧
    (s.busConfig = none → exec (.setgainlink e) s = .refused .beforeInit) ∧
    ∀ cfg, s.busConfig = some cfg →
      ∃ t, exec (.setgainlink e) s = .next t ∧
        t.stateRegister.getLsbD 6 = e ∧
        (∀ i, i ≠ 6 → t.stateRegister.getLsbD i = s.stateRegister.getLsbD i) ∧
        t = { s with
          stateRegister := t.stateRegister
          pending := s.pending ++
            [.txnBegin cfg, .line s.selectLine .low, .xfer t.stateRegister,
              .xfer (controlByte s.params.ctrl.state s.deviceAddress), .line s.selectLine .high, .txnEnd] }

/-- The next-state formulas of 41_state_setters.md R89 (derived there). -/
def Obligations.StateBitCommandsFollowTheNextStateFormulas : Prop :=
  ∀ (e : Bool) (s : State) (cfg : BusConfig), s.busConfig = some cfg →
    (∃ t, exec (.setzc e) s = .next t ∧
      t.stateRegister = (s.stateRegister &&& 0xDF#8) ||| ((BitVec.ofBool !e).setWidth 8 <<< 5)) ∧
    (∃ t, exec (.setattlink e) s = .next t ∧
      t.stateRegister = (s.stateRegister &&& 0x7F#8) ||| ((BitVec.ofBool e).setWidth 8 <<< 7)) ∧
    (∃ t, exec (.setgainlink e) s = .next t ∧
      t.stateRegister = (s.stateRegister &&& 0xBF#8) ||| ((BitVec.ofBool e).setWidth 8 <<< 6))

/-- 42_level_setters.md R90: with bit 7 set SETVOL writes only `EncAtt(l)` to the left attenuation address, with bit 7
clear it writes left, then right; no state is written; before INIT it is `refuse(beforeInit)`. -/
def Obligations.SetvolWritesOneOrTwoAttenuations : Prop :=
  ∀ (l r : Operand) (s : State),
    opField (encode (.setvol l r)) = 0x1#4 ∧ fieldA (encode (.setvol l r)) = l ∧ fieldB (encode (.setvol l r)) = r ∧
    (s.busConfig = none → exec (.setvol l r) s = .refused .beforeInit) ∧
    ∀ cfg, s.busConfig = some cfg →
      (s.stateRegister.getLsbD 7 = true →
        exec (.setvol l r) s = .next { s with
          pending := s.pending ++ frameEvents cfg s.selectLine s.deviceAddress s.params.ctrl.attL (encAtt l) }) ∧
      (s.stateRegister.getLsbD 7 = false →
        exec (.setvol l r) s = .next { s with
          pending := s.pending ++
            (frameEvents cfg s.selectLine s.deviceAddress s.params.ctrl.attL (encAtt l) ++
              frameEvents cfg s.selectLine s.deviceAddress s.params.ctrl.attR (encAtt r)) })

/-- 42_level_setters.md R94: SETGAIN has the same structure with bit 6, the gain addresses and `EncGain`. -/
def Obligations.SetgainWritesOneOrTwoGains : Prop :=
  ∀ (l r : Operand) (s : State),
    opField (encode (.setgain l r)) = 0x2#4 ∧ fieldA (encode (.setgain l r)) = l ∧
    fieldB (encode (.setgain l r)) = r ∧
    (s.busConfig = none → exec (.setgain l r) s = .refused .beforeInit) ∧
    ∀ cfg, s.busConfig = some cfg →
      (s.stateRegister.getLsbD 6 = true →
        exec (.setgain l r) s = .next { s with
          pending := s.pending ++ frameEvents cfg s.selectLine s.deviceAddress s.params.ctrl.gainL (encGain l) }) ∧
      (s.stateRegister.getLsbD 6 = false →
        exec (.setgain l r) s = .next { s with
          pending := s.pending ++
            (frameEvents cfg s.selectLine s.deviceAddress s.params.ctrl.gainL (encGain l) ++
              frameEvents cfg s.selectLine s.deviceAddress s.params.ctrl.gainR (encGain r)) })

/-- 42_level_setters.md R98: MUTE writes the raw byte 0x00 to one or both attenuation addresses, by bit 7. -/
def Obligations.MuteWritesTheRawByteZero : Prop :=
  ∀ s : State,
    opField (encode .mute) = 0x3#4 ∧
    (s.busConfig = none → exec .mute s = .refused .beforeInit) ∧
    ∀ cfg, s.busConfig = some cfg →
      (s.stateRegister.getLsbD 7 = true →
        exec .mute s = .next { s with
          pending := s.pending ++ frameEvents cfg s.selectLine s.deviceAddress s.params.ctrl.attL 0x00#8 }) ∧
      (s.stateRegister.getLsbD 7 = false →
        exec .mute s = .next { s with
          pending := s.pending ++
            (frameEvents cfg s.selectLine s.deviceAddress s.params.ctrl.attL 0x00#8 ++
              frameEvents cfg s.selectLine s.deviceAddress s.params.ctrl.attR 0x00#8) })

/-- 42_level_setters.md R92: SETVOL1 `v` has the word and the semantics of SETVOL `v, v`: `EncAtt(v)` to the left address,
and to the right one too when bit 7 is clear. -/
def Obligations.SetvolOneSetsBothChannelsToOneValue : Prop :=
  ∀ (v : Operand) (s : State),
    encode (.setvol1 v) = encode (.setvol v v) ∧ exec (.setvol1 v) s = exec (.setvol v v) s ∧
    ∀ cfg, s.busConfig = some cfg →
      exec (.setvol1 v) s = .next { s with
        pending := s.pending ++
          (frameEvents cfg s.selectLine s.deviceAddress s.params.ctrl.attL (encAtt v) ++
            if s.stateRegister.getLsbD 7 then []
            else frameEvents cfg s.selectLine s.deviceAddress s.params.ctrl.attR (encAtt v)) }

/-- 42_level_setters.md R96: SETGAIN1 `g` is SETGAIN `g, g`. That it is offered is the spec's own decision D14
(log 14). -/
def Obligations.SetgainOneSetsBothChannelsToOneValue : Prop :=
  ∀ (g : Operand) (s : State),
    encode (.setgain1 g) = encode (.setgain g g) ∧ exec (.setgain1 g) s = exec (.setgain g g) s ∧
    ∀ cfg, s.busConfig = some cfg →
      exec (.setgain1 g) s = .next { s with
        pending := s.pending ++
          (frameEvents cfg s.selectLine s.deviceAddress s.params.ctrl.gainL (encGain g) ++
            if s.stateRegister.getLsbD 6 then []
            else frameEvents cfg s.selectLine s.deviceAddress s.params.ctrl.gainR (encGain g)) }

/-- 43_transfer_and_init.md R110: the first INIT sets `busConfig` to the bus parameters and emits one `LINE(sel, HIGH)`;
the mirror keeps its value. That the event is exactly one is the spec's own decision D9 (log 9). -/
def Obligations.FirstInitSetsTheBusConfiguration : Prop :=
  opField (encode .init) = 0x0#4 ∧
  ∀ s : State, s.busConfig = none →
    exec .init s = .next { s with
      busConfig := some s.params.bus
      pending := s.pending ++ [.line s.selectLine .high] }

/-- The MODEL's choice (log 11), the hardware choice D11 of 43_transfer_and_init.md R111: a second INIT "re-writes the
same `busConfig` and emits `LINE(sel, HIGH)` again, changing nothing else". -/
def Obligations.SecondInitOnlyDrivesTheLineAgain : Prop :=
  ∀ s : State, s.busConfig = some s.params.bus →
    exec .init s = .next { s with pending := s.pending ++ [.line s.selectLine .high] }

/-- The MODEL's choice (log 12), the hardware choice D12 of 30_encoding.md R60: after INIT a reserved command is "accepted
and retired with no effect, that is no state change and no event". -/
def Obligations.ReservedCommandsHaveNoEffect : Prop :=
  ∀ (op : Nibble) (s : State) (cfg : BusConfig), s.busConfig = some cfg →
    exec .reserved7 s = .next s ∧ exec (.reserved8F op) s = .next s

/-- A command is refused exactly when it is not INIT and `busConfig` is unset, always as `beforeInit`; nothing faults
(60_exceptions.md R120, R124; that it stays undefined is the spec's own decision D10, log 10). That a second INIT and a
reserved command after INIT answer a next state is the MODEL's choice, the hardware choices D11 (log 11) and D12 (log 12)
where the spec advises a model to refuse (43_transfer_and_init.md R111, 30_encoding.md R60). -/
def Obligations.OnlyCommandsBeforeInitAreRefused : Prop :=
  ∀ (i : Instr) (s : State),
    (∀ r, exec i s = .refused r ↔ r = .beforeInit ∧ i ≠ .init ∧ s.busConfig = none) ∧
    (i = .init ∨ s.busConfig ≠ none → ∃ t, exec i s = .next t)

/-- The frame of every command: what was queued stays queued in front, and every field of the block, the trace, the inputs
and the chip are unchanged but for the mirror (the three state-bit commands, one bit each) and `busConfig` (INIT) (10_state.md
R12, R18, R19, R20). -/
def Obligations.CommandsChangeOnlyWhatTheyName : Prop :=
  ∀ (i : Instr) (s t : State), exec i s = .next t →
    t = { s with stateRegister := t.stateRegister, busConfig := t.busConfig, pending := t.pending } ∧
    (∃ es, t.pending = s.pending ++ es) ∧
    (i ≠ .init → t.busConfig = s.busConfig) ∧
    (∀ b, t.stateRegister.getLsbD b ≠ s.stateRegister.getLsbD b →
      (b = 7 ∧ ∃ e, i = .setattlink e) ∨ (b = 6 ∧ ∃ e, i = .setgainlink e) ∨ (b = 5 ∧ ∃ e, i = .setzc e))

/-- The event counts of 42_level_setters.md R103 (derived there) and 41_state_setters.md R86. Two clauses are the MODEL's
choice where the spec advises a model to refuse: the one event of INIT, which with `busConfig` set is a second INIT (the
hardware choice D11, log 11), and none for a reserved command (the hardware choice D12, log 12). -/
def Obligations.CommandsQueueSixOrTwelveEvents : Prop :=
  ∀ (i : Instr) (s : State) (cfg : BusConfig), s.busConfig = some cfg →
    ∃ t, exec i s = .next t ∧
      t.pending.length = s.pending.length +
        match i with
        | .init => 1
        | .setvol _ _ => if s.stateRegister.getLsbD 7 then 6 else 12
        | .setgain _ _ => if s.stateRegister.getLsbD 6 then 6 else 12
        | .mute => if s.stateRegister.getLsbD 7 then 6 else 12
        | .setzc _ => 6
        | .setattlink _ => 6
        | .setgainlink _ => 6
        | .reserved7 => 0
        | .reserved8F _ => 0
        | .setvol1 _ => if s.stateRegister.getLsbD 7 then 6 else 12
        | .setgain1 _ => if s.stateRegister.getLsbD 6 then 6 else 12

/-- SETVOL and MUTE read bit 7 of the mirror and no other, SETGAIN bit 6 and no other (10_state.md R12,
42_level_setters.md R95 (c), R99 (d)). -/
def Obligations.LevelCommandsReadOneLinkBit : Prop :=
  ∀ (l r : Operand) (b : Byte) (s t : State),
    (b.getLsbD 7 = s.stateRegister.getLsbD 7 →
      (exec (.setvol l r) s = .next t →
        exec (.setvol l r) { s with stateRegister := b } = .next { t with stateRegister := b }) ∧
      (exec .mute s = .next t → exec .mute { s with stateRegister := b } = .next { t with stateRegister := b })) ∧
    (b.getLsbD 6 = s.stateRegister.getLsbD 6 →
      exec (.setgain l r) s = .next t →
        exec (.setgain l r) { s with stateRegister := b } = .next { t with stateRegister := b })

/-- With its link bit set, the right operand of SETVOL and of SETGAIN has no effect (42_level_setters.md R91 (e),
R95 (d)); the trace of MUTE is that of `SETVOL 16, 16` in every state (R99 (e), derived there). -/
def Obligations.UnusedRightOperandAndMuteAsSetvolSixteen : Prop :=
  ∀ (l r r' : Operand) (s : State),
    (s.stateRegister.getLsbD 7 = true → exec (.setvol l r) s = exec (.setvol l r') s) ∧
    (s.stateRegister.getLsbD 6 = true → exec (.setgain l r) s = exec (.setgain l r') s) ∧
    exec .mute s = exec (.setvol 16#16 16#16) s

/-! ## The clock edge -/

/-- A step runs the decoded command: with no reset, an idle block and a command presented, the step is `exec` of what the
word decodes to, on the state with the port sample consumed and what befalls the chip alone accounted for; in particular a word that
is the encoding of a well-formed command runs that command (10_state.md R23; the ports are D1, D15, log 15). -/
def Obligations.StepRunsTheDecodedCommand : Prop :=
  ∀ s : State, s.sample.rst = false → s.pending = [] → s.sample.cmdValid = true →
    step s = exec (decode s.sample.cmdWord) (s.sampled.upsetChip s.sample) ∧
    (s.sample.chipUpset = .steady → step s = exec (decode s.sample.cmdWord) { s with inputs := s.inputs.tail }) ∧
    ∀ i : Instr, i.wellFormed = true → s.sample.cmdWord = encode i →
      step s = exec i.expand (s.sampled.upsetChip s.sample)

/-- A busy block offers the head of `pending`: taken by the transport it leaves the queue, joins the trace and sets
`lineLevel` and `txnOpen`; no command is accepted and no other state of the block changes (10_state.md R22, R23; D15,
log 15). -/
def Obligations.BusyBlockDeliversItsNextEvent : Prop :=
  ∀ (s : State) (e : Event) (rest : List Event),
    s.pending = e :: rest → s.sample.rst = false → s.sample.evReady = true →
      ∃ t, step s = .next t ∧
        t = { s with
          pending := rest
          trace := s.trace ++ [e]
          lineLevel := (match e with | .line _ .low => .low | .line _ .high => .high | _ => s.lineLevel)
          txnOpen := (match e with | .txnBegin _ => true | .txnEnd => false | _ => s.txnOpen)
          inputs := s.inputs.tail
          chip := t.chip
          freeIndex := t.freeIndex }

/-- Nothing happens to the block at an edge without reset where an event is offered and not taken, or where nothing is
pending and no command is presented (10_state.md R22, R23; D15, log 15). -/
def Obligations.BlockWaitsForTransportAndHost : Prop :=
  ∀ s : State, s.sample.rst = false →
    (s.pending ≠ [] ∧ s.sample.evReady = false) ∨ (s.pending = [] ∧ s.sample.cmdValid = false) →
      step s = .next (s.sampled.upsetChip s.sample) ∧
      (s.sampled.upsetChip s.sample).blockOnly = { s.blockOnly with inputs := s.blockOnly.inputs.tail }

/-- Reset, whatever else is presented: every value of 10_state.md R27 (70_reset_and_hazards.md R135, 60_exceptions.md
R123). Synchronous, active-high and winning are the spec's own decision D8 (log 8); the archived trace is the model's
(log 17). -/
def Obligations.ResetEdgeGivesTheResetValues : Prop :=
  ∀ s : State, s.sample.rst = true →
    ∃ t, step s = .next t ∧
      t.stateRegister = 0x20#8 ∧ t.deviceAddress = s.sample.strap ∧ t.selectLine = s.selectLine ∧
      t.busConfig = none ∧ t.pending = [] ∧ t.lineLevel = .unconfigured ∧ t.txnOpen = false ∧
      t.params = s.params ∧ t.trace = [] ∧ t.earlierTraces = s.earlierTraces ++ [s.trace] ∧
      t.inputs = s.inputs.tail

/-- The block's reset leaves the chip of an idle block as it is; with events unsent the chip's registers become free values
and a frame in progress is cut off (70_reset_and_hazards.md R136; D8, log 8, 18, 19). -/
def Obligations.ResetTouchesTheChipOnlyMidCommand : Prop :=
  ∀ s : State, s.sample.rst = true → s.sample.chipUpset = .steady →
    ∃ t, step s = .next t ∧
      (s.pending = [] → t.chip = s.chip ∧ t.freeIndex = s.freeIndex) ∧
      (s.pending ≠ [] →
        t.chip = { s.chip with
          attL := Config.freeByte s.selectLine s.freeIndex
          attR := Config.freeByte s.selectLine (s.freeIndex + 1)
          gainL := Config.freeByte s.selectLine (s.freeIndex + 2)
          gainR := Config.freeByte s.selectLine (s.freeIndex + 3)
          state := Config.freeByte s.selectLine (s.freeIndex + 4)
          rx := (match s.chip.rx with | .idle => .idle | _ => .truncated) })

/-- The state after reset (10_state.md R27) and the chip's power-on flags (20_memory.md R39). The strap is whatever was
strapped; `State.reset` is one such state, with the parameters of log 4, 5, 20. -/
def Obligations.ResetStateHoldsTheValuesOfTheTable : Prop :=
  (∃ params line strap, State.reset = State.powerUp params line strap) ∧
  ∀ (params : Params) (line : LineId) (strap : Nibble),
    (State.powerUp params line strap).stateRegister = 0x20#8 ∧
    (State.powerUp params line strap).deviceAddress = strap ∧
    (State.powerUp params line strap).selectLine = line ∧
    (State.powerUp params line strap).busConfig = none ∧
    (State.powerUp params line strap).pending = [] ∧
    (State.powerUp params line strap).lineLevel = .unconfigured ∧
    (State.powerUp params line strap).txnOpen = false ∧
    (State.powerUp params line strap).chip.state.getLsbD 7 = false ∧
    (State.powerUp params line strap).chip.state.getLsbD 6 = false ∧
    (State.powerUp params line strap).chip.state.getLsbD 5 = false

/-- The ports (10_state.md R22, R23; D15, log 15): `ev_kind` is 0 for TXN_BEGIN, 1 for LINE LOW, 2 for XFER, 3 for LINE
HIGH, 4 for TXN_END and never 5 to 7; `ev_data` is the byte of an XFER, zero otherwise; the codes tell the events of one
instance apart; `ev_valid` is 1 exactly when an event is pending and then the outputs are the head's codes, `cmd_ready` is
1 exactly when none is. What `ev_kind` is while `ev_valid` is 0 is not determined (log 30). -/
def Obligations.PortCodesIdentifyTheEvents : Prop :=
  (∀ cfg : BusConfig, (Event.txnBegin cfg).kind = 0#3) ∧
  (∀ id : LineId, (Event.line id .low).kind = 1#3 ∧ (Event.line id .high).kind = 3#3) ∧
  (∀ b : Byte, (Event.xfer b).kind = 2#3 ∧ (Event.xfer b).data = b) ∧
  Event.txnEnd.kind = 4#3 ∧
  (∀ e : Event, e.kind ≠ 2#3 → e.data = 0#8) ∧
  (∀ (cfg : BusConfig) (line : LineId) (e f : Event),
    (∀ c, e = .txnBegin c ∨ f = .txnBegin c → c = cfg) →
    (∀ i l, e = .line i l ∨ f = .line i l → i = line) →
    e.kind = f.kind → e.data = f.data → e = f) ∧
  ∀ s : State,
    (s.cmdReady = true ↔ s.pending = []) ∧
    (s.evValid = true ↔ s.pending ≠ []) ∧
    (∀ k, s.evKind = some k → k.toNat ≤ 4) ∧
    (s.pending = [] → s.evData = 0#8) ∧
    ∀ (e : Event) (rest : List Event), s.pending = e :: rest → s.evKind = some e.kind ∧ s.evData = e.data

/-! ## Whole-machine rules -/

/-- Without a reset, the device address, the select line and the parameters never change, and `busConfig` changes only by
accepting INIT (10_state.md R18, R19, R20). -/
def Obligations.IdentityIsImmutableBetweenResets : Prop :=
  ∀ s t : State, step s = .next t →
    t.selectLine = s.selectLine ∧ t.params = s.params ∧
    (s.sample.rst = false →
      t.deviceAddress = s.deviceAddress ∧
      (t.busConfig = s.busConfig ∨
        (s.sampled.accepted s.sample = some .init ∧ t.busConfig = some s.params.bus)))

/-- Each bit of the mirror changes only by accepting its own command, or by reset (10_state.md R12, R14 to R16,
41_state_setters.md R88). -/
def Obligations.MirrorBitsChangeOnlyByTheirOwnCommand : Prop :=
  ∀ s t : State, step s = .next t → s.sample.rst = false →
    ∀ b, t.stateRegister.getLsbD b ≠ s.stateRegister.getLsbD b →
      (b = 7 ∧ ∃ e, s.sampled.accepted s.sample = some (.setattlink e)) ∨
      (b = 6 ∧ ∃ e, s.sampled.accepted s.sample = some (.setgainlink e)) ∨
      (b = 5 ∧ ∃ e, s.sampled.accepted s.sample = some (.setzc e))

/-- The invariant holds at reset, for all parameters, select lines and straps. -/
def Obligations.ResetStateMeetsTheInvariant : Prop :=
  State.reset.Inv ∧ ∀ (params : Params) (line : LineId) (strap : Nibble), (State.powerUp params line strap).Inv

/-- Every step keeps the invariant: bits 4:0 of the mirror zero (10_state.md R17), at most twelve events pending (R21),
`busConfig` unset or the parameters (R20), `lineLevel` and `txnOpen` functions of the trace (R21), trace and pending events
together whole items (43_transfer_and_init.md R107, R114), whatever the host, the transport and the chip do. -/
def Obligations.EveryStepKeepsTheInvariant : Prop :=
  ∀ s t : State, s.Inv → step s = .next t → t.Inv

/-- In a state that meets the invariant the mirror holds one of the eight bytes, and from 0x20 after INIT each of the eight
is reached by at most three state-bit commands (10_state.md R26, derived there). -/
def Obligations.EightStateBytesAreReachable : Prop :=
  (∀ s : State, s.Inv →
    s.stateRegister ∈ [0x00#8, 0x20#8, 0x40#8, 0x60#8, 0x80#8, 0xA0#8, 0xC0#8, 0xE0#8]) ∧
  ∀ r ∈ [0x00#8, 0x20#8, 0x40#8, 0x60#8, 0x80#8, 0xA0#8, 0xC0#8, 0xE0#8],
    ∃ is : List Instr, is.length ≤ 3 ∧
      (∀ i ∈ is, ∃ e, i = .setzc e ∨ i = .setattlink e ∨ i = .setgainlink e) ∧
      ∀ (s : State) (cfg : BusConfig), s.busConfig = some cfg → s.stateRegister = 0x20#8 →
        ∃ t, s.execAll is = .next t ∧ t.stateRegister = r

/-- At rest after INIT the select line is high and no transaction is open (10_state.md R21, 70_reset_and_hazards.md R150,
derived there). -/
def Obligations.IdleBlockHoldsTheLineHigh : Prop :=
  ∀ s : State, s.Inv → s.atRest → s.initDone = true → s.lineLevel = .high ∧ s.txnOpen = false

/-- The trace of 43_transfer_and_init.md R114 is there at reset: nothing emitted, nothing pending, no INIT. -/
def Obligations.ResetStateMeetsTheTraceShape : Prop :=
  State.reset.FramedTrace ∧
    ∀ (params : Params) (line : LineId) (strap : Nibble), (State.powerUp params line strap).FramedTrace

/-- Under commands that respect the contract the trace from reset, with what is pending, is `H F F F ...`: one
`LINE(sel, HIGH)`, then whole frames to the five control addresses of this device (43_transfer_and_init.md R114, derived
there; the H is D9, log 9). -/
def Obligations.ContractKeepsTheTraceShape : Prop :=
  ∀ s t : State, s.Inv → s.FramedTrace → s.nextInContract = true → step s = .next t → t.FramedTrace

/-- Program order (20_memory.md R42): between resets, what is emitted and pending only grows at its end, by the events of
an accepted command, and the trace grows by the event delivered, so nothing is reordered, repeated or dropped. -/
def Obligations.EventsAreNeverReorderedRepeatedOrDropped : Prop :=
  ∀ s t : State, step s = .next t → s.sample.rst = false →
    (∃ es, t.trace ++ t.pending = (s.trace ++ s.pending) ++ es ∧ (s.sampled.accepted s.sample = none → es = [])) ∧
    ((s.sampled.delivered s.sample = none ∧ t.trace = s.trace) ∨
      ∃ e, s.sampled.delivered s.sample = some e ∧ t.trace = s.trace ++ [e])

/-- The two views of 10_state.md R23 agree (derived there; D15, log 15): the edge that accepts a command and then as many
calm edges as it queued events lead where the command as one atomic step leads. -/
def Obligations.EdgesOfACommandAreItsAtomicStep : Prop :=
  ∀ s t : State,
    s.sample.rst = false → s.sample.chipUpset = .steady → s.sample.cmdValid = true → s.atRest →
    exec (decode s.sample.cmdWord) s.sampled = .next t →
    (∀ p ∈ t.inputs.take t.pending.length, p.calm = true) →
      core.run (1 + t.pending.length) s = .next { t.drain with inputs := t.inputs.drop t.pending.length }

/-- If the transport takes what it is offered, every accepted command has retired after twelve edges
(70_reset_and_hazards.md R149, R150; fairness as the quiet wires of log 16). -/
def Obligations.AcceptedCommandRetiresWithinTwelveEdges : Prop :=
  ∀ s : State, s.Inv → s.inputs = [] →
    ∃ t : State, core.run 12 s = .next t ∧ t.atRest ∧ t.cmdReady = true ∧ t.trace = s.trace ++ s.pending ∧
      t.stateRegister = s.stateRegister

/-- Nothing the chip does reaches the block: two states that agree but for the chip, and samples that agree but for the
returned byte, what befalls the chip alone and losses on the way to the chip, give outcomes that agree but for the chip (10_state.md
R24, 20_memory.md R33, R40, R47). -/
def Obligations.ChipCannotInfluenceTheBlock : Prop :=
  ∀ s t : State, s.blockOnly = t.blockOnly → Result.blockOnly (step s) = Result.blockOnly (step t)

/-! ## Mirror and chip -/

/-- Any one of the three state-bit commands, once its frame is delivered, makes the chip's configuration register equal to
the mirror, whatever it held, and writes no other register of the chip (10_state.md R25, 41_state_setters.md R83 (b), R85
(b), R88, 70_reset_and_hazards.md R146; the chip is the environment model of 20_memory.md R37, log 18). -/
def Obligations.StateBitCommandMakesTheChipAgree : Prop :=
  ∀ (e : Bool) (i : Instr) (s : State) (cfg : BusConfig),
    i = .setzc e ∨ i = .setattlink e ∨ i = .setgainlink e →
    s.busConfig = some cfg → s.atRest → s.chip.rx = .idle → s.chip.address = s.deviceAddress →
    s.params.ctrl.distinct →
      ∃ t, exec i s = .next t ∧ t.Mirrored ∧
        t.drain.chip = { s.chip with state := t.stateRegister } ∧ t.drain.stateRegister = t.stateRegister

/-- Every step keeps mirror and chip in agreement as long as nothing happens to the chip or to a frame on its way
(10_state.md R25; log 18). -/
def Obligations.CleanStepsKeepMirrorAndChipInAgreement : Prop :=
  ∀ s t : State, s.Mirrored → s.sample.clean = true → step s = .next t → t.Mirrored

/-- 70_reset_and_hazards.md R141: after power-up and INIT mirror and chip agree in bits 7 and 6 and disagree in bit 5; INIT
sends nothing to the chip (43_transfer_and_init.md R110; one `LINE(sel, HIGH)` is D9, log 9). -/
def Obligations.AfterPowerUpAndInitOnlyBitFiveDisagrees : Prop :=
  ∀ (params : Params) (line : LineId) (strap : Nibble),
    ∃ t, exec .init (State.powerUp params line strap) = .next t ∧
      t.drain.trace = [.line line .high] ∧ t.drain.lineLevel = .high ∧
      t.drain.stateRegister = 0x20#8 ∧
      t.drain.chip = (State.powerUp params line strap).chip ∧
      t.drain.chip.state.getLsbD 7 = t.drain.stateRegister.getLsbD 7 ∧
      t.drain.chip.state.getLsbD 6 = t.drain.stateRegister.getLsbD 6 ∧
      t.drain.chip.state.getLsbD 5 ≠ t.drain.stateRegister.getLsbD 5

/-- A frame for another address changes nothing in the chip; one for this chip writes the register its nibble names, and
both registers of a pair when the left one is written while the chip's link flag is 1 (20_memory.md R37, derived there;
R38). -/
def Obligations.ChipTakesItsOwnFrames : Prop :=
  ∀ (m : CtrlMap) (free : Nat → Byte) (n : Nat) (d : Byte) (a : Nibble) (k : Chip), m.distinct →
    (a ≠ k.address → ∀ ctrl, k.deliver m free n d (controlByte ctrl a) = (k, n)) ∧
    (a = k.address →
      k.deliver m free n d (controlByte m.state a) = ({ k with state := d }, n) ∧
      (k.state.getLsbD 7 = false →
        k.deliver m free n d (controlByte m.attL a) = ({ k with attL := d }, n) ∧
        k.deliver m free n d (controlByte m.attR a) = ({ k with attR := d }, n)) ∧
      (k.state.getLsbD 7 = true →
        k.deliver m free n d (controlByte m.attL a) = ({ k with attL := d, attR := d }, n)) ∧
      (k.state.getLsbD 6 = false →
        k.deliver m free n d (controlByte m.gainL a) = ({ k with gainL := d }, n) ∧
        k.deliver m free n d (controlByte m.gainR a) = ({ k with gainR := d }, n)) ∧
      (k.state.getLsbD 6 = true →
        k.deliver m free n d (controlByte m.gainL a) = ({ k with gainL := d, gainR := d }, n)))

/-- What SETVOL stores once its frames are delivered: the chip's attenuation registers, and no other byte of the chip
(42_level_setters.md R90, R91 (g); 20_memory.md R37, derived there; log 18). -/
def Obligations.SetvolStoresOnlyAttenuations : Prop :=
  ∀ (l r : Operand) (s : State) (cfg : BusConfig),
    s.busConfig = some cfg → s.atRest → s.chip.rx = .idle → s.chip.address = s.deviceAddress →
    s.params.ctrl.distinct →
      ∃ t, exec (.setvol l r) s = .next t ∧
        (s.attLink = false → s.chip.state.getLsbD 7 = false →
          t.drain.chip = { s.chip with attL := encAtt l, attR := encAtt r }) ∧
        (s.attLink = true → s.chip.state.getLsbD 7 = true →
          t.drain.chip = { s.chip with attL := encAtt l, attR := encAtt l }) ∧
        (s.attLink = true → s.chip.state.getLsbD 7 = false →
          t.drain.chip = { s.chip with attL := encAtt l }) ∧
        (s.attLink = false → s.chip.state.getLsbD 7 = true →
          t.drain.chip = { s.chip with attL := encAtt l, attR := t.drain.chip.attR })

/-- What SETGAIN stores once its frames are delivered: the chip's gain registers, and no other byte of the chip
(42_level_setters.md R94; 20_memory.md R37, derived there; log 18). -/
def Obligations.SetgainStoresOnlyGains : Prop :=
  ∀ (l r : Operand) (s : State) (cfg : BusConfig),
    s.busConfig = some cfg → s.atRest → s.chip.rx = .idle → s.chip.address = s.deviceAddress →
    s.params.ctrl.distinct →
      ∃ t, exec (.setgain l r) s = .next t ∧
        (s.gainLink = false → s.chip.state.getLsbD 6 = false →
          t.drain.chip = { s.chip with gainL := encGain l, gainR := encGain r }) ∧
        (s.gainLink = true → s.chip.state.getLsbD 6 = true →
          t.drain.chip = { s.chip with gainL := encGain l, gainR := encGain l }) ∧
        (s.gainLink = true → s.chip.state.getLsbD 6 = false →
          t.drain.chip = { s.chip with gainL := encGain l }) ∧
        (s.gainLink = false → s.chip.state.getLsbD 6 = true →
          t.drain.chip = { s.chip with gainL := encGain l, gainR := t.drain.chip.gainR })

/-- 70_reset_and_hazards.md R145, 20_memory.md R41: between the two frames of an unlinked SETVOL the left register is new
and the right one old, and no transaction is open. -/
def Obligations.LeftChannelIsNewBeforeTheRightOne : Prop :=
  ∀ (l r : Operand) (s : State) (cfg : BusConfig),
    s.busConfig = some cfg → s.atRest → s.inputs = [] → s.chip.rx = .idle → s.chip.address = s.deviceAddress →
    s.params.ctrl.distinct → s.attLink = false → s.chip.state.getLsbD 7 = false →
      ∃ t u : State, exec (.setvol l r) s = .next t ∧ core.run 6 t = .next u ∧
        u.chip = { s.chip with attL := encAtt l } ∧ u.txnOpen = false ∧ u.pending.length = 6

/-! ## Several instances -/

/-- At most one instance has a transaction open, whichever instance goes next (20_memory.md R43, R45; the interleaving is
the spec's own decision D20, log 22), and select lines that are distinct stay so (10_state.md R19,
70_reset_and_hazards.md R148). -/
def Obligations.BusStepsKeepTransactionsExclusive : Prop :=
  ∀ (b b' : Bus) (k : Nat), b.step k = .next b' →
    (b.Exclusive → b'.Exclusive) ∧ (b.DistinctLines → b'.DistinctLines)

/-- "no event of one instance falls between a `TXN_BEGIN` and the matching `TXN_END` of another" (20_memory.md R45; D20,
log 22), and the other instances' blocks are untouched: "Instances share nothing but the transport" (60_exceptions.md
R129). A `LINE` event carries the select line of the instance that emits it, and no other instance's where the lines are
distinct (10_state.md R19, 70_reset_and_hazards.md R148). A reset of an instance that has no transaction open leaves every
other instance and its chip, with whatever frame it is hearing, as they are (R136: nothing on the bus is unfinished). -/
def Obligations.NoEventFallsIntoAnothersTransaction : Prop :=
  ∀ (b b' : Bus) (k : Nat), b.step k = .next b' →
    (b'.log = b.log ∨ ∃ e, b'.log = b.log ++ [(k, e)] ∧
      ∀ (j : Nat) (s : State), j ≠ k → b.nodes[j]? = some s → s.txnOpen = false) ∧
    (∀ j, j ≠ k → (b'.nodes[j]?).map State.blockOnly = (b.nodes[j]?).map State.blockOnly) ∧
    (∀ (s : State) (id : LineId) (level : Level), b.nodes[k]? = some s → s.Inv →
      b'.log = b.log ++ [(k, .line id level)] →
        id = s.selectLine ∧
        (b.DistinctLines → ∀ (j : Nat) (t : State), b.nodes[j]? = some t → t.selectLine = id → j = k)) ∧
    ∀ s : State, b.nodes[k]? = some s → s.sample.rst = true → s.txnOpen = false →
      b'.log = b.log ∧ ∀ j, j ≠ k → b'.nodes[j]? = b.nodes[j]?

/-! ## Upsets of the chip -/

/-- The chip after its own power cycle and after its own reset (60_exceptions.md R132, 70_reset_and_hazards.md R142,
20_memory.md R39). With a reset of the block, a power cycle is a power-up of both. Without one the edge goes on from that
chip, and the block is as it was. Power-on registers are unknown but for flags 7:5, which are zero. That a reset of the
chip leaves all five unknown, and that either cuts a frame in progress off, is the MODEL's choice (log 18, 19, 23). -/
def Obligations.ChipUpsetsLeaveUnknownRegisters : Prop :=
  ∀ s : State,
    let unknown : Chip :=
      { s.chip with
        attL := Config.freeByte s.selectLine s.freeIndex
        attR := Config.freeByte s.selectLine (s.freeIndex + 1)
        gainL := Config.freeByte s.selectLine (s.freeIndex + 2)
        gainR := Config.freeByte s.selectLine (s.freeIndex + 3)
        state := Config.freeByte s.selectLine (s.freeIndex + 4)
        rx := (match s.chip.rx with | .idle => .idle | _ => .truncated) }
    (s.sample.chipUpset = .powerCycle →
      (s.sample.rst = true → ∃ t, step s = .next t ∧
        t.stateRegister = 0x20#8 ∧ t.deviceAddress = s.sample.strap ∧ t.busConfig = none ∧ t.pending = [] ∧
        t.chip = { unknown with state := unknown.state &&& 0x1F#8, rx := .idle }) ∧
      (s.sample.rst = false → step s = State.work s.sample
        { s with
          inputs := s.inputs.tail
          chip := { unknown with state := unknown.state &&& 0x1F#8 }
          freeIndex := s.freeIndex + 5 })) ∧
    (s.sample.chipUpset = .reset →
      (s.sample.rst = true → ∃ t, step s = .next t ∧
        t.stateRegister = 0x20#8 ∧ t.deviceAddress = s.sample.strap ∧ t.busConfig = none ∧ t.pending = [] ∧
        t.chip = unknown) ∧
      (s.sample.rst = false → step s = State.work s.sample
        { s with inputs := s.inputs.tail, chip := unknown, freeIndex := s.freeIndex + 5 }))
end

