-- ==== Sys2Proof/Laws/State.lean ====
section
/-! SUPPORT. One lemma per field per update of State, so that no proof unfolds an update. -/

namespace Sys2Proof.Machine

/-! ## enqueue -/

@[simp] theorem enqueue_stateRegister (es : List Event) (s : State) : (s.enqueue es).stateRegister = s.stateRegister := rfl
@[simp] theorem enqueue_deviceAddress (es : List Event) (s : State) : (s.enqueue es).deviceAddress = s.deviceAddress := rfl
@[simp] theorem enqueue_selectLine (es : List Event) (s : State) : (s.enqueue es).selectLine = s.selectLine := rfl
@[simp] theorem enqueue_busConfig (es : List Event) (s : State) : (s.enqueue es).busConfig = s.busConfig := rfl
@[simp] theorem enqueue_pending (es : List Event) (s : State) : (s.enqueue es).pending = s.pending ++ es := rfl
@[simp] theorem enqueue_lineLevel (es : List Event) (s : State) : (s.enqueue es).lineLevel = s.lineLevel := rfl
@[simp] theorem enqueue_txnOpen (es : List Event) (s : State) : (s.enqueue es).txnOpen = s.txnOpen := rfl
@[simp] theorem enqueue_params (es : List Event) (s : State) : (s.enqueue es).params = s.params := rfl
@[simp] theorem enqueue_chip (es : List Event) (s : State) : (s.enqueue es).chip = s.chip := rfl
@[simp] theorem enqueue_inputs (es : List Event) (s : State) : (s.enqueue es).inputs = s.inputs := rfl
@[simp] theorem enqueue_trace (es : List Event) (s : State) : (s.enqueue es).trace = s.trace := rfl
@[simp] theorem enqueue_earlierTraces (es : List Event) (s : State) : (s.enqueue es).earlierTraces = s.earlierTraces := rfl
@[simp] theorem enqueue_freeIndex (es : List Event) (s : State) : (s.enqueue es).freeIndex = s.freeIndex := rfl

/-! ## record -/

@[simp] theorem record_stateRegister (e : Event) (s : State) : (s.record e).stateRegister = s.stateRegister := rfl
@[simp] theorem record_deviceAddress (e : Event) (s : State) : (s.record e).deviceAddress = s.deviceAddress := rfl
@[simp] theorem record_selectLine (e : Event) (s : State) : (s.record e).selectLine = s.selectLine := rfl
@[simp] theorem record_busConfig (e : Event) (s : State) : (s.record e).busConfig = s.busConfig := rfl
@[simp] theorem record_pending (e : Event) (s : State) : (s.record e).pending = s.pending := rfl
@[simp] theorem record_lineLevel (e : Event) (s : State) : (s.record e).lineLevel = s.lineLevel.after e := rfl
@[simp] theorem record_txnOpen (e : Event) (s : State) : (s.record e).txnOpen = txnOpenAfter s.txnOpen e := rfl
@[simp] theorem record_params (e : Event) (s : State) : (s.record e).params = s.params := rfl
@[simp] theorem record_chip (e : Event) (s : State) : (s.record e).chip = s.chip := rfl
@[simp] theorem record_inputs (e : Event) (s : State) : (s.record e).inputs = s.inputs := rfl
@[simp] theorem record_trace (e : Event) (s : State) : (s.record e).trace = s.trace ++ [e] := rfl
@[simp] theorem record_earlierTraces (e : Event) (s : State) : (s.record e).earlierTraces = s.earlierTraces := rfl
@[simp] theorem record_freeIndex (e : Event) (s : State) : (s.record e).freeIndex = s.freeIndex := rfl

/-! ## overhear -/

@[simp] theorem overhear_stateRegister (e : Event) (s : State) : (s.overhear e).stateRegister = s.stateRegister := rfl
@[simp] theorem overhear_deviceAddress (e : Event) (s : State) : (s.overhear e).deviceAddress = s.deviceAddress := rfl
@[simp] theorem overhear_selectLine (e : Event) (s : State) : (s.overhear e).selectLine = s.selectLine := rfl
@[simp] theorem overhear_busConfig (e : Event) (s : State) : (s.overhear e).busConfig = s.busConfig := rfl
@[simp] theorem overhear_pending (e : Event) (s : State) : (s.overhear e).pending = s.pending := rfl
@[simp] theorem overhear_lineLevel (e : Event) (s : State) : (s.overhear e).lineLevel = s.lineLevel := rfl
@[simp] theorem overhear_txnOpen (e : Event) (s : State) : (s.overhear e).txnOpen = s.txnOpen := rfl
@[simp] theorem overhear_params (e : Event) (s : State) : (s.overhear e).params = s.params := rfl
@[simp] theorem overhear_chip (e : Event) (s : State) : (s.overhear e).chip = (s.chip.hear s.params.ctrl s.free s.freeIndex e).1 := rfl
@[simp] theorem overhear_inputs (e : Event) (s : State) : (s.overhear e).inputs = s.inputs := rfl
@[simp] theorem overhear_trace (e : Event) (s : State) : (s.overhear e).trace = s.trace := rfl
@[simp] theorem overhear_earlierTraces (e : Event) (s : State) : (s.overhear e).earlierTraces = s.earlierTraces := rfl
@[simp] theorem overhear_freeIndex (e : Event) (s : State) : (s.overhear e).freeIndex = (s.chip.hear s.params.ctrl s.free s.freeIndex e).2 := rfl

/-! ## blockReset -/

@[simp] theorem blockReset_stateRegister (strap : Nibble) (s : State) : (s.blockReset strap).stateRegister = 0x20#8 := rfl
@[simp] theorem blockReset_deviceAddress (strap : Nibble) (s : State) : (s.blockReset strap).deviceAddress = strap := rfl
@[simp] theorem blockReset_selectLine (strap : Nibble) (s : State) : (s.blockReset strap).selectLine = s.selectLine := rfl
@[simp] theorem blockReset_busConfig (strap : Nibble) (s : State) : (s.blockReset strap).busConfig = none := rfl
@[simp] theorem blockReset_pending (strap : Nibble) (s : State) : (s.blockReset strap).pending = [] := rfl
@[simp] theorem blockReset_lineLevel (strap : Nibble) (s : State) : (s.blockReset strap).lineLevel = .unconfigured := rfl
@[simp] theorem blockReset_txnOpen (strap : Nibble) (s : State) : (s.blockReset strap).txnOpen = false := rfl
@[simp] theorem blockReset_params (strap : Nibble) (s : State) : (s.blockReset strap).params = s.params := rfl
@[simp] theorem blockReset_chip (strap : Nibble) (s : State) : (s.blockReset strap).chip = s.chip := rfl
@[simp] theorem blockReset_inputs (strap : Nibble) (s : State) : (s.blockReset strap).inputs = s.inputs := rfl
@[simp] theorem blockReset_trace (strap : Nibble) (s : State) : (s.blockReset strap).trace = [] := rfl
@[simp] theorem blockReset_earlierTraces (strap : Nibble) (s : State) : (s.blockReset strap).earlierTraces = s.earlierTraces ++ [s.trace] := rfl
@[simp] theorem blockReset_freeIndex (strap : Nibble) (s : State) : (s.blockReset strap).freeIndex = s.freeIndex := rfl

/-! ## scrambleChip -/

@[simp] theorem scrambleChip_stateRegister (s : State) : (s.scrambleChip).stateRegister = s.stateRegister := rfl
@[simp] theorem scrambleChip_deviceAddress (s : State) : (s.scrambleChip).deviceAddress = s.deviceAddress := rfl
@[simp] theorem scrambleChip_selectLine (s : State) : (s.scrambleChip).selectLine = s.selectLine := rfl
@[simp] theorem scrambleChip_busConfig (s : State) : (s.scrambleChip).busConfig = s.busConfig := rfl
@[simp] theorem scrambleChip_pending (s : State) : (s.scrambleChip).pending = s.pending := rfl
@[simp] theorem scrambleChip_lineLevel (s : State) : (s.scrambleChip).lineLevel = s.lineLevel := rfl
@[simp] theorem scrambleChip_txnOpen (s : State) : (s.scrambleChip).txnOpen = s.txnOpen := rfl
@[simp] theorem scrambleChip_params (s : State) : (s.scrambleChip).params = s.params := rfl
@[simp] theorem scrambleChip_inputs (s : State) : (s.scrambleChip).inputs = s.inputs := rfl
@[simp] theorem scrambleChip_trace (s : State) : (s.scrambleChip).trace = s.trace := rfl
@[simp] theorem scrambleChip_earlierTraces (s : State) : (s.scrambleChip).earlierTraces = s.earlierTraces := rfl
@[simp] theorem scrambleChip_freeIndex (s : State) : (s.scrambleChip).freeIndex = s.freeIndex + Chip.registerCount := rfl

/-! ## powerUpChip -/

@[simp] theorem powerUpChip_stateRegister (rx : Receiver) (s : State) : (s.powerUpChip rx).stateRegister = s.stateRegister := rfl
@[simp] theorem powerUpChip_deviceAddress (rx : Receiver) (s : State) : (s.powerUpChip rx).deviceAddress = s.deviceAddress := rfl
@[simp] theorem powerUpChip_selectLine (rx : Receiver) (s : State) : (s.powerUpChip rx).selectLine = s.selectLine := rfl
@[simp] theorem powerUpChip_busConfig (rx : Receiver) (s : State) : (s.powerUpChip rx).busConfig = s.busConfig := rfl
@[simp] theorem powerUpChip_pending (rx : Receiver) (s : State) : (s.powerUpChip rx).pending = s.pending := rfl
@[simp] theorem powerUpChip_lineLevel (rx : Receiver) (s : State) : (s.powerUpChip rx).lineLevel = s.lineLevel := rfl
@[simp] theorem powerUpChip_txnOpen (rx : Receiver) (s : State) : (s.powerUpChip rx).txnOpen = s.txnOpen := rfl
@[simp] theorem powerUpChip_params (rx : Receiver) (s : State) : (s.powerUpChip rx).params = s.params := rfl
@[simp] theorem powerUpChip_inputs (rx : Receiver) (s : State) : (s.powerUpChip rx).inputs = s.inputs := rfl
@[simp] theorem powerUpChip_trace (rx : Receiver) (s : State) : (s.powerUpChip rx).trace = s.trace := rfl
@[simp] theorem powerUpChip_earlierTraces (rx : Receiver) (s : State) : (s.powerUpChip rx).earlierTraces = s.earlierTraces := rfl
@[simp] theorem powerUpChip_freeIndex (rx : Receiver) (s : State) : (s.powerUpChip rx).freeIndex = s.freeIndex + Chip.registerCount := rfl

/-! ## sampled -/

@[simp] theorem sampled_stateRegister (s : State) : (s.sampled).stateRegister = s.stateRegister := rfl
@[simp] theorem sampled_deviceAddress (s : State) : (s.sampled).deviceAddress = s.deviceAddress := rfl
@[simp] theorem sampled_selectLine (s : State) : (s.sampled).selectLine = s.selectLine := rfl
@[simp] theorem sampled_busConfig (s : State) : (s.sampled).busConfig = s.busConfig := rfl
@[simp] theorem sampled_pending (s : State) : (s.sampled).pending = s.pending := rfl
@[simp] theorem sampled_lineLevel (s : State) : (s.sampled).lineLevel = s.lineLevel := rfl
@[simp] theorem sampled_txnOpen (s : State) : (s.sampled).txnOpen = s.txnOpen := rfl
@[simp] theorem sampled_params (s : State) : (s.sampled).params = s.params := rfl
@[simp] theorem sampled_chip (s : State) : (s.sampled).chip = s.chip := rfl
@[simp] theorem sampled_inputs (s : State) : (s.sampled).inputs = s.inputs.tail := rfl
@[simp] theorem sampled_trace (s : State) : (s.sampled).trace = s.trace := rfl
@[simp] theorem sampled_earlierTraces (s : State) : (s.sampled).earlierTraces = s.earlierTraces := rfl
@[simp] theorem sampled_freeIndex (s : State) : (s.sampled).freeIndex = s.freeIndex := rfl

/-! ## emit -/

@[simp] theorem emit_stateRegister (heard : Bool) (e : Event) (s : State) : (s.emit heard e).stateRegister = s.stateRegister := by
  cases heard <;> rfl
@[simp] theorem emit_deviceAddress (heard : Bool) (e : Event) (s : State) : (s.emit heard e).deviceAddress = s.deviceAddress := by
  cases heard <;> rfl
@[simp] theorem emit_selectLine (heard : Bool) (e : Event) (s : State) : (s.emit heard e).selectLine = s.selectLine := by
  cases heard <;> rfl
@[simp] theorem emit_busConfig (heard : Bool) (e : Event) (s : State) : (s.emit heard e).busConfig = s.busConfig := by
  cases heard <;> rfl
@[simp] theorem emit_pending (heard : Bool) (e : Event) (s : State) : (s.emit heard e).pending = s.pending := by
  cases heard <;> rfl
@[simp] theorem emit_lineLevel (heard : Bool) (e : Event) (s : State) : (s.emit heard e).lineLevel = s.lineLevel.after e := by
  cases heard <;> rfl
@[simp] theorem emit_txnOpen (heard : Bool) (e : Event) (s : State) : (s.emit heard e).txnOpen = txnOpenAfter s.txnOpen e := by
  cases heard <;> rfl
@[simp] theorem emit_params (heard : Bool) (e : Event) (s : State) : (s.emit heard e).params = s.params := by
  cases heard <;> rfl
@[simp] theorem emit_inputs (heard : Bool) (e : Event) (s : State) : (s.emit heard e).inputs = s.inputs := by
  cases heard <;> rfl
@[simp] theorem emit_trace (heard : Bool) (e : Event) (s : State) : (s.emit heard e).trace = s.trace ++ [e] := by
  cases heard <;> rfl
@[simp] theorem emit_earlierTraces (heard : Bool) (e : Event) (s : State) : (s.emit heard e).earlierTraces = s.earlierTraces := by
  cases heard <;> rfl
@[simp] theorem emit_unheard_chip (e : Event) (s : State) : (s.emit false e).chip = s.chip := rfl
@[simp] theorem emit_heard_chip (e : Event) (s : State) :
    (s.emit true e).chip = (s.chip.hear s.params.ctrl s.free s.freeIndex e).1 := rfl
@[simp] theorem emit_heard_freeIndex (e : Event) (s : State) :
    (s.emit true e).freeIndex = (s.chip.hear s.params.ctrl s.free s.freeIndex e).2 := rfl

/-! ## upsetChip -/

@[simp] theorem upsetChip_stateRegister (p : PortSample) (s : State) : (s.upsetChip p).stateRegister = s.stateRegister := by
  unfold State.upsetChip; split <;> rfl
@[simp] theorem upsetChip_deviceAddress (p : PortSample) (s : State) : (s.upsetChip p).deviceAddress = s.deviceAddress := by
  unfold State.upsetChip; split <;> rfl
@[simp] theorem upsetChip_selectLine (p : PortSample) (s : State) : (s.upsetChip p).selectLine = s.selectLine := by
  unfold State.upsetChip; split <;> rfl
@[simp] theorem upsetChip_busConfig (p : PortSample) (s : State) : (s.upsetChip p).busConfig = s.busConfig := by
  unfold State.upsetChip; split <;> rfl
@[simp] theorem upsetChip_pending (p : PortSample) (s : State) : (s.upsetChip p).pending = s.pending := by
  unfold State.upsetChip; split <;> rfl
@[simp] theorem upsetChip_lineLevel (p : PortSample) (s : State) : (s.upsetChip p).lineLevel = s.lineLevel := by
  unfold State.upsetChip; split <;> rfl
@[simp] theorem upsetChip_txnOpen (p : PortSample) (s : State) : (s.upsetChip p).txnOpen = s.txnOpen := by
  unfold State.upsetChip; split <;> rfl
@[simp] theorem upsetChip_params (p : PortSample) (s : State) : (s.upsetChip p).params = s.params := by
  unfold State.upsetChip; split <;> rfl
@[simp] theorem upsetChip_inputs (p : PortSample) (s : State) : (s.upsetChip p).inputs = s.inputs := by
  unfold State.upsetChip; split <;> rfl
@[simp] theorem upsetChip_trace (p : PortSample) (s : State) : (s.upsetChip p).trace = s.trace := by
  unfold State.upsetChip; split <;> rfl
@[simp] theorem upsetChip_earlierTraces (p : PortSample) (s : State) : (s.upsetChip p).earlierTraces = s.earlierTraces := by
  unfold State.upsetChip; split <;> rfl
theorem upsetChip_of_steady {p : PortSample} (h : p.chipUpset = .steady) (s : State) : s.upsetChip p = s := by
  simp [State.upsetChip, h]

/-! ## cutOffFrame -/

@[simp] theorem cutOffFrame_stateRegister (s : State) : (s.cutOffFrame).stateRegister = s.stateRegister := rfl
@[simp] theorem cutOffFrame_deviceAddress (s : State) : (s.cutOffFrame).deviceAddress = s.deviceAddress := rfl
@[simp] theorem cutOffFrame_selectLine (s : State) : (s.cutOffFrame).selectLine = s.selectLine := rfl
@[simp] theorem cutOffFrame_busConfig (s : State) : (s.cutOffFrame).busConfig = s.busConfig := rfl
@[simp] theorem cutOffFrame_pending (s : State) : (s.cutOffFrame).pending = s.pending := rfl
@[simp] theorem cutOffFrame_lineLevel (s : State) : (s.cutOffFrame).lineLevel = s.lineLevel := rfl
@[simp] theorem cutOffFrame_txnOpen (s : State) : (s.cutOffFrame).txnOpen = s.txnOpen := rfl
@[simp] theorem cutOffFrame_params (s : State) : (s.cutOffFrame).params = s.params := rfl
@[simp] theorem cutOffFrame_inputs (s : State) : (s.cutOffFrame).inputs = s.inputs := rfl
@[simp] theorem cutOffFrame_trace (s : State) : (s.cutOffFrame).trace = s.trace := rfl
@[simp] theorem cutOffFrame_earlierTraces (s : State) : (s.cutOffFrame).earlierTraces = s.earlierTraces := rfl
@[simp] theorem cutOffFrame_freeIndex (s : State) : (s.cutOffFrame).freeIndex = s.freeIndex := rfl

/-! ## bystand -/

@[simp] theorem bystand_stateRegister (abandoned : Bool) (delivered : Option Event) (s : State) :
    (s.bystand abandoned delivered).stateRegister = s.stateRegister := by
  cases abandoned <;> cases delivered <;> rfl
@[simp] theorem bystand_deviceAddress (abandoned : Bool) (delivered : Option Event) (s : State) :
    (s.bystand abandoned delivered).deviceAddress = s.deviceAddress := by
  cases abandoned <;> cases delivered <;> rfl
@[simp] theorem bystand_selectLine (abandoned : Bool) (delivered : Option Event) (s : State) :
    (s.bystand abandoned delivered).selectLine = s.selectLine := by
  cases abandoned <;> cases delivered <;> rfl
@[simp] theorem bystand_busConfig (abandoned : Bool) (delivered : Option Event) (s : State) :
    (s.bystand abandoned delivered).busConfig = s.busConfig := by
  cases abandoned <;> cases delivered <;> rfl
@[simp] theorem bystand_pending (abandoned : Bool) (delivered : Option Event) (s : State) :
    (s.bystand abandoned delivered).pending = s.pending := by
  cases abandoned <;> cases delivered <;> rfl
@[simp] theorem bystand_lineLevel (abandoned : Bool) (delivered : Option Event) (s : State) :
    (s.bystand abandoned delivered).lineLevel = s.lineLevel := by
  cases abandoned <;> cases delivered <;> rfl
@[simp] theorem bystand_txnOpen (abandoned : Bool) (delivered : Option Event) (s : State) :
    (s.bystand abandoned delivered).txnOpen = s.txnOpen := by
  cases abandoned <;> cases delivered <;> rfl
@[simp] theorem bystand_params (abandoned : Bool) (delivered : Option Event) (s : State) :
    (s.bystand abandoned delivered).params = s.params := by
  cases abandoned <;> cases delivered <;> rfl
@[simp] theorem bystand_inputs (abandoned : Bool) (delivered : Option Event) (s : State) :
    (s.bystand abandoned delivered).inputs = s.inputs := by
  cases abandoned <;> cases delivered <;> rfl
@[simp] theorem bystand_trace (abandoned : Bool) (delivered : Option Event) (s : State) :
    (s.bystand abandoned delivered).trace = s.trace := by
  cases abandoned <;> cases delivered <;> rfl
@[simp] theorem bystand_earlierTraces (abandoned : Bool) (delivered : Option Event) (s : State) :
    (s.bystand abandoned delivered).earlierTraces = s.earlierTraces := by
  cases abandoned <;> cases delivered <;> rfl

/-! ## blockOnly -/

@[simp] theorem upsetChip_blockOnly (p : PortSample) (s : State) : (s.upsetChip p).blockOnly = s.blockOnly := by
  simp [State.blockOnly]
@[simp] theorem overhear_blockOnly (e : Event) (s : State) : (s.overhear e).blockOnly = s.blockOnly := by
  simp [State.blockOnly]
@[simp] theorem bystand_blockOnly (abandoned : Bool) (delivered : Option Event) (s : State) :
    (s.bystand abandoned delivered).blockOnly = s.blockOnly := by
  cases abandoned <;> cases delivered <;> simp [State.bystand, State.blockOnly]

/-! ## Samples -/

theorem clean_iff {p : PortSample} : p.clean = true ↔ p.rst = false ∧ p.chipUpset = .steady ∧ p.busLoss = false := by
  simp [PortSample.clean, and_assoc]

theorem calm_iff {p : PortSample} :
    p.calm = true ↔ (p.rst = false ∧ p.chipUpset = .steady ∧ p.busLoss = false) ∧ p.evReady = true := by
  simp [PortSample.calm, clean_iff]

/-! ## Control addresses -/

theorem holds_iff {m : CtrlMap} {ctrl : Nibble} :
    m.holds ctrl ↔ ctrl = m.attL ∨ ctrl = m.attR ∨ ctrl = m.gainL ∨ ctrl = m.gainR ∨ ctrl = m.state := by
  simp [CtrlMap.holds, CtrlMap.nibbles]

/-! ## free -/

@[simp] theorem free_def (s : State) : s.free = Config.freeByte s.selectLine := rfl

end Sys2Proof.Machine
end

