-- ==== Sys2Proof/Laws/Frame.lean ====
section
/-! SUPPORT. The control byte, the frame, and what the chip makes of a frame. -/

namespace Sys2Proof.Machine

@[simp] theorem controlByte_low (ctrl address : Nibble) : (controlByte ctrl address).extractLsb' 0 4 = address := by
  revert ctrl address; decide

@[simp] theorem controlByte_high (ctrl address : Nibble) : (controlByte ctrl address).extractLsb' 4 4 = ctrl := by
  revert ctrl address; decide

@[simp] theorem frameEvents_length (cfg : BusConfig) (line : LineId) (address ctrl : Nibble) (data : Byte) :
    (frameEvents cfg line address ctrl data).length = 6 := rfl

@[simp] theorem frame_length (s : State) (cfg : BusConfig) (ctrl : Nibble) (data : Byte) :
    (s.frame cfg ctrl data).length = 6 := rfl

/-- After a frame the line is high, whatever it was. -/
@[simp] theorem frameEvents_lineLevel (cfg : BusConfig) (line : LineId) (address ctrl : Nibble) (data : Byte)
    (l : LineLevel) : (frameEvents cfg line address ctrl data).foldl LineLevel.after l = .high := rfl

/-- After a frame no transaction is open, whatever was. -/
@[simp] theorem frameEvents_txnOpen (cfg : BusConfig) (line : LineId) (address ctrl : Nibble) (data : Byte) (o : Bool) :
    (frameEvents cfg line address ctrl data).foldl txnOpenAfter o = false := rfl

/-- The chip after a list of events, and the next unused free value. -/
def Chip.hearAll (m : CtrlMap) (free : Nat → Byte) (c : Chip × Nat) (es : List Event) : Chip × Nat :=
  es.foldl (fun k e => k.1.hear m free k.2 e) c

theorem hearAll_append (m : CtrlMap) (free : Nat → Byte) (c : Chip × Nat) (es fs : List Event) :
    Chip.hearAll m free c (es ++ fs) = Chip.hearAll m free (Chip.hearAll m free c es) fs := by
  simp [Chip.hearAll]

/-- A deselected chip takes a whole frame as one delivery (spec/20_memory.md R37). -/
theorem hearAll_frame (m : CtrlMap) (free : Nat → Byte) (c : Chip) (n : Nat) (h : c.rx = .idle) (cfg : BusConfig)
    (line : LineId) (address ctrl : Nibble) (data : Byte) :
    Chip.hearAll m free (c, n) (frameEvents cfg line address ctrl data) =
      c.deliver m free n data (controlByte ctrl address) := by
  cases c
  subst h
  rfl

/-- A delivery changes neither the address nor the receiver. -/
theorem deliver_frame (m : CtrlMap) (free : Nat → Byte) (n : Nat) (d b : Byte) (k : Chip) :
    (k.deliver m free n d b).1.address = k.address ∧ (k.deliver m free n d b).1.rx = k.rx := by
  unfold Chip.deliver Chip.scramble
  repeat' split
  all_goals exact ⟨rfl, rfl⟩

end Sys2Proof.Machine
end

