-- ==== Sys2Proof/Laws/Ops.lean ====
section
/-! SUPPORT. One lemma per shared operation: everything it can do. -/

namespace Sys2Proof.Machine

theorem initDone_eq_true {s : State} : s.initDone = true ↔ ∃ cfg, s.busConfig = some cfg := by
  simp [State.initDone, Option.isSome_iff_exists]

theorem initDone_eq_false {s : State} : s.initDone = false ↔ s.busConfig = none := by
  simp [State.initDone]

@[simp] theorem afterInit_some {s : State} {cfg : BusConfig} (h : s.busConfig = some cfg) (k : BusConfig → State) :
    s.afterInit k = .next (k cfg) := by
  simp [State.afterInit, h]

@[simp] theorem afterInit_none {s : State} (h : s.busConfig = none) (k : BusConfig → State) :
    s.afterInit k = .refused .beforeInit := by
  simp [State.afterInit, h]

/-- A guarded command runs exactly when `busConfig` is set. -/
theorem afterInit_eq_next {s t : State} {k : BusConfig → State} :
    s.afterInit k = .next t ↔ ∃ cfg, s.busConfig = some cfg ∧ t = k cfg := by
  cases h : s.busConfig with
  | none => simp [State.afterInit, h]
  | some cfg => simp [State.afterInit, h, eq_comm]

theorem writeStateByte_eq_next {b : Byte} {s t : State} :
    s.writeStateByte b = .next t ↔
      ∃ cfg, s.busConfig = some cfg ∧
        t = { s with stateRegister := b, pending := s.pending ++ s.frame cfg s.params.ctrl.state b } :=
  afterInit_eq_next

theorem writeChannels_eq_next {linked : Bool} {cl cr : Nibble} {dl dr : Byte} {s t : State} :
    s.writeChannels linked cl cr dl dr = .next t ↔
      ∃ cfg, s.busConfig = some cfg ∧
        t = { s with pending := s.pending ++
          if linked then s.frame cfg cl dl else s.frame cfg cl dl ++ s.frame cfg cr dr } :=
  afterInit_eq_next

/-- The frames of a level command, as pairs of control address and data byte. -/
theorem writeChannels_frames {linked : Bool} {cl cr : Nibble} {dl dr : Byte} {s t : State}
    (h : s.writeChannels linked cl cr dl dr = .next t) :
    ∃ cfg, s.busConfig = some cfg ∧
      t = { s with pending := s.pending ++
        (if linked then [(cl, dl)] else [(cl, dl), (cr, dr)]).flatMap fun f => s.frame cfg f.1 f.2 } := by
  obtain ⟨cfg, hc, rfl⟩ := writeChannels_eq_next.mp h
  refine ⟨cfg, hc, ?_⟩
  cases linked <;> simp

theorem retire_eq_next {s t : State} :
    s.retire = .next t ↔ ∃ cfg, s.busConfig = some cfg ∧ t = s :=
  afterInit_eq_next

/-- All a command can do when it is accepted: INIT sets `busConfig` and drives the line; a state-bit command writes its
own bit and queues one frame with the new byte; every other command queues at most two frames to level registers. -/
theorem exec_cases {i : Instr} {s t : State} (h : exec i s = .next t) :
    (i = .init ∧ t = { s with
      busConfig := some s.params.bus
      pending := s.pending ++ [.line s.selectLine .high] }) ∨
    ∃ cfg, s.busConfig = some cfg ∧
      ((∃ n b, ((n = 5 ∧ i = .setzc (!b)) ∨ (n = 6 ∧ i = .setgainlink b) ∨ (n = 7 ∧ i = .setattlink b)) ∧
        t = { s with
          stateRegister := withBit n b s.stateRegister
          pending := s.pending ++ s.frame cfg s.params.ctrl.state (withBit n b s.stateRegister) }) ∨
      (i ≠ .init ∧ (∀ e, i ≠ .setzc e ∧ i ≠ .setgainlink e ∧ i ≠ .setattlink e) ∧
        ∃ fs : List (Nibble × Byte), fs.length ≤ 2 ∧
        (∀ f ∈ fs, f.1 ∈ [s.params.ctrl.attL, s.params.ctrl.attR, s.params.ctrl.gainL, s.params.ctrl.gainR]) ∧
        t = { s with pending := s.pending ++ fs.flatMap fun f => s.frame cfg f.1 f.2 })) := by
  cases i
  case init =>
    simp only [exec, execInit, Host.Outcome.next.injEq] at h
    exact .inl ⟨rfl, h.symm⟩
  case setzc e =>
    obtain ⟨cfg, hc, rfl⟩ := writeStateByte_eq_next.mp h
    exact .inr ⟨cfg, hc, .inl ⟨5, !e, .inl ⟨rfl, by simp⟩, rfl⟩⟩
  case setgainlink e =>
    obtain ⟨cfg, hc, rfl⟩ := writeStateByte_eq_next.mp h
    exact .inr ⟨cfg, hc, .inl ⟨6, e, .inr (.inl ⟨rfl, rfl⟩), rfl⟩⟩
  case setattlink e =>
    obtain ⟨cfg, hc, rfl⟩ := writeStateByte_eq_next.mp h
    exact .inr ⟨cfg, hc, .inl ⟨7, e, .inr (.inr ⟨rfl, rfl⟩), rfl⟩⟩
  case reserved7 | reserved8F =>
    obtain ⟨cfg, hc, rfl⟩ := retire_eq_next.mp h
    exact .inr ⟨cfg, hc, .inr ⟨by simp, by simp, [], by simp, by simp, by simp⟩⟩
  all_goals
    obtain ⟨cfg, hc, rfl⟩ := writeChannels_frames h
    refine .inr ⟨cfg, hc, .inr ⟨by simp, by simp, _, ?_, ?_, rfl⟩⟩
    · split <;> simp
    · split <;> simp

/-- What no command changes. -/
theorem exec_frame {i : Instr} {s t : State} (h : exec i s = .next t) :
    t = { s with stateRegister := t.stateRegister, busConfig := t.busConfig, pending := t.pending } := by
  obtain ⟨-, rfl⟩ | ⟨cfg, -, ⟨n, b, -, rfl⟩ | ⟨-, -, fs, -, -, rfl⟩⟩ := exec_cases h <;> rfl

/-- A command has a next state exactly when it is INIT or `busConfig` is set. -/
theorem exec_total {i : Instr} {s : State} (h : i = .init ∨ s.busConfig ≠ none) : ∃ t, exec i s = .next t := by
  rcases h with rfl | h
  · exact ⟨_, rfl⟩
  · obtain ⟨cfg, h⟩ := Option.ne_none_iff_exists'.mp h
    cases i
    case init => exact ⟨_, rfl⟩
    all_goals exact ⟨_, afterInit_some h _⟩

/-! ## Bits of the mirror -/

/-- One bit written, the others unchanged. -/
theorem withBit_getLsbD (i j : Nat) (hi : i < 8) (b : Bool) (r : Byte) :
    (withBit i b r).getLsbD j = if j = i then b else r.getLsbD j := by
  by_cases hj : j < 8
  · have hi' : i = 0 ∨ i = 1 ∨ i = 2 ∨ i = 3 ∨ i = 4 ∨ i = 5 ∨ i = 6 ∨ i = 7 := by omega
    have hj' : j = 0 ∨ j = 1 ∨ j = 2 ∨ j = 3 ∨ j = 4 ∨ j = 5 ∨ j = 6 ∨ j = 7 := by omega
    rcases hi' with rfl | rfl | rfl | rfl | rfl | rfl | rfl | rfl <;>
      rcases hj' with rfl | rfl | rfl | rfl | rfl | rfl | rfl | rfl <;>
        simp [withBit]
  · have : j ≠ i := by omega
    simp [this, BitVec.getLsbD_of_ge _ _ (Nat.le_of_not_lt hj)]

/-- Writing bit 7, 6 or 5 keeps bits 4:0 zero. -/
theorem withBit_reserved {i : Nat} (hi : i = 5 ∨ i = 6 ∨ i = 7) (b : Bool) {r : Byte} (h : r &&& 0x1F#8 = 0#8) :
    withBit i b r &&& 0x1F#8 = 0#8 := by
  have key : ∀ b : Bool, ∀ r : Byte, r &&& 0x1F#8 = 0#8 →
      withBit 5 b r &&& 0x1F#8 = 0#8 ∧ withBit 6 b r &&& 0x1F#8 = 0#8 ∧ withBit 7 b r &&& 0x1F#8 = 0#8 := by decide
  rcases hi with rfl | rfl | rfl
  · exact (key b r h).1
  · exact (key b r h).2.1
  · exact (key b r h).2.2

/-! ## Emission -/

/-- Events delivered one after another, all heard. -/
def State.emitAll (es : List Event) (s : State) : State := es.foldl (fun t e => t.emit true e) s

theorem drain_eq (s : State) : s.drain = ({ s with pending := [] } : State).emitAll s.pending := rfl

theorem emitAll_nil (s : State) : s.emitAll [] = s := rfl

theorem emitAll_cons (e : Event) (es : List Event) (s : State) :
    s.emitAll (e :: es) = (s.emit true e).emitAll es := rfl

/-- All that delivering a list of events does. -/
theorem emitAll_spec (es : List Event) (s : State) :
    s.emitAll es = { s with
      trace := s.trace ++ es
      lineLevel := es.foldl LineLevel.after s.lineLevel
      txnOpen := es.foldl txnOpenAfter s.txnOpen
      chip := (Chip.hearAll s.params.ctrl s.free (s.chip, s.freeIndex) es).1
      freeIndex := (Chip.hearAll s.params.ctrl s.free (s.chip, s.freeIndex) es).2 } := by
  induction es generalizing s with
  | nil => simp [State.emitAll, Chip.hearAll]
  | cons e es ih =>
    rw [emitAll_cons, ih]
    simp [Chip.hearAll, State.emit, State.overhear, State.record]

theorem drain_spec (s : State) :
    s.drain = { s with
      pending := []
      trace := s.trace ++ s.pending
      lineLevel := s.pending.foldl LineLevel.after s.lineLevel
      txnOpen := s.pending.foldl txnOpenAfter s.txnOpen
      chip := (Chip.hearAll s.params.ctrl s.free (s.chip, s.freeIndex) s.pending).1
      freeIndex := (Chip.hearAll s.params.ctrl s.free (s.chip, s.freeIndex) s.pending).2 } := by
  rw [drain_eq, emitAll_spec]
  rfl

/-- A block at rest has nothing to drain. -/
theorem drain_atRest {s : State} (h : s.atRest) : s.drain = s := by
  have h : s.pending = [] := h
  obtain ⟨⟩ := s
  subst h
  rfl

/-- Delivering the head, heard, does not change where draining ends. -/
theorem drain_emit {s : State} {e : Event} {rest : List Event} (h : s.pending = e :: rest) :
    (({ s with pending := rest } : State).emit true e).drain = s.drain := by
  simp [State.drain, h, State.emit, State.overhear, State.record]

end Sys2Proof.Machine
end

