-- ==== Sys2Proof/Laws/Step.lean ====
section
/-! SUPPORT. What one clock edge can do. -/

namespace Sys2Proof.Machine

theorem edge_reset {p : PortSample} {s : State} (h : p.rst = true) : s.edge p = .next (s.resetEdge p) := by
  simp [State.edge, h]

theorem edge_deliver {p : PortSample} {s : State} {e : Event} {rest : List Event} (hr : p.rst = false)
    (hp : s.pending = e :: rest) : s.edge p = .next ((s.upsetChip p).offer p e rest) := by
  simp [State.edge, State.work, hr, hp]

theorem edge_accept {p : PortSample} {s : State} (hr : p.rst = false) (hp : s.atRest) (hv : p.cmdValid = true) :
    s.edge p = exec (decode p.cmdWord) (s.upsetChip p) := by
  have hp : s.pending = [] := hp
  simp [State.edge, State.work, hr, hp, hv]

theorem edge_idle {p : PortSample} {s : State} (hr : p.rst = false) (hp : s.atRest) (hv : p.cmdValid = false) :
    s.edge p = .next (s.upsetChip p) := by
  have hp : s.pending = [] := hp
  simp [State.edge, State.work, hr, hp, hv]

/-- The four things an edge can be. -/
theorem edge_cases (p : PortSample) (s : State) :
    (p.rst = true ∧ s.edge p = .next (s.resetEdge p)) ∨
    (p.rst = false ∧ ∃ e rest, s.pending = e :: rest ∧ s.edge p = .next ((s.upsetChip p).offer p e rest)) ∨
    (p.rst = false ∧ s.atRest ∧ p.cmdValid = true ∧ s.edge p = exec (decode p.cmdWord) (s.upsetChip p)) ∨
    (p.rst = false ∧ s.atRest ∧ p.cmdValid = false ∧ s.edge p = .next (s.upsetChip p)) := by
  cases hr : p.rst
  · cases hp : s.pending with
    | cons e rest => exact .inr (.inl ⟨rfl, e, rest, rfl, edge_deliver hr hp⟩)
    | nil =>
      cases hv : p.cmdValid
      · exact .inr (.inr (.inr ⟨rfl, hp, rfl, edge_idle hr hp hv⟩))
      · exact .inr (.inr (.inl ⟨rfl, hp, rfl, edge_accept hr hp hv⟩))
  · exact .inl ⟨rfl, edge_reset hr⟩

/-- The block's fields after a reset edge. -/
theorem resetEdge_block (p : PortSample) (s : State) :
    ∃ chip n, s.resetEdge p = { s.blockReset p.strap with chip := chip, freeIndex := n } := by
  unfold State.resetEdge
  split
  · exact ⟨_, _, rfl⟩
  · exact ⟨_, _, rfl⟩
  · split
    · exact ⟨_, _, rfl⟩
    · exact ⟨_, _, rfl⟩

/-- The command an edge accepts. -/
theorem accepted_of_command {p : PortSample} {s : State} (hr : p.rst = false) (hp : s.atRest) (hv : p.cmdValid = true) :
    s.accepted p = some (decode p.cmdWord) := by
  have hp : s.pending = [] := hp
  simp [State.accepted, State.cmdReady, hr, hp, hv]

/-- A calm edge of a busy block delivers the head of the queue, to the chip too, and leaves the rest to come. -/
theorem step_calm {s : State} {e : Event} {rest : List Event} (hp : s.pending = e :: rest)
    (hc : s.sample.calm = true) : step s = .next (({ s.sampled with pending := rest } : State).emit true e) := by
  obtain ⟨⟨h1, h2, h3⟩, h4⟩ := calm_iff.mp hc
  refine (edge_deliver (s := s.sampled) h1 hp).trans ?_
  rw [upsetChip_of_steady h2]
  simp [State.offer, h3, h4]

/-- A block that is at rest and has no sample listed does not move. -/
theorem step_quiet {s : State} (hi : s.inputs = []) (hp : s.atRest) : step s = .next s := by
  have hs : s.sample = .quiet := by simp [State.sample, hi]
  refine (edge_idle (s := s.sampled) (by rw [hs]; rfl) hp (by rw [hs]; rfl)).trans ?_
  rw [hs, upsetChip_of_steady rfl]
  obtain ⟨⟩ := s
  subst hi
  rfl

/-- With quiet wires, `n` steps of a block that has at least `n` events pending deliver the first `n` of them. -/
theorem run_quiet (n : Nat) (s : State) (hi : s.inputs = []) (hn : n ≤ s.pending.length) :
    core.run n s = .next (({ s with pending := s.pending.drop n } : State).emitAll (s.pending.take n)) := by
  induction n generalizing s with
  | zero => rfl
  | succ n ih =>
    obtain ⟨e, rest, hp⟩ := List.exists_cons_of_ne_nil (l := s.pending) (by rintro h; simp [h] at hn)
    have hs : s.sample = .quiet := by simp [State.sample, hi]
    have h1 : core.step s = .next _ := step_calm hp (by rw [hs]; rfl)
    have hsam : s.sampled = s := by
      obtain ⟨⟩ := s
      subst hi
      rfl
    simp only [Host.Core.run, h1]
    rw [ih _ (by simp [hi]) (by simp [hp] at hn ⊢; omega), hsam]
    simp [hp, State.emitAll]
    rfl

end Sys2Proof.Machine
end

