-- ==== Sys2Proof/Laws/Bus.lean ====
section
/-! SUPPORT. What one edge on a bus can do. -/

namespace Sys2Proof.Machine

/-- An edge keeps the select line. -/
theorem edge_selectLine {p : PortSample} {s t : State} (h : s.edge p = .next t) : t.selectLine = s.selectLine := by
  obtain ⟨-, he⟩ | ⟨-, e, rest, -, he⟩ | ⟨-, -, -, he⟩ | ⟨-, -, -, he⟩ := edge_cases p s <;> rw [he] at h
  · obtain ⟨c, n, hc⟩ := resetEdge_block p s
    rw [hc] at h
    cases h
    rfl
  · cases h
    unfold State.offer
    split <;> simp
  · rw [exec_frame h]
    exact upsetChip_selectLine p s
  · cases h
    exact upsetChip_selectLine p s

/-- All that a step of instance `k` can do: nothing, or `k` takes an edge and the others stand by. -/
theorem bus_step_cases {b b' : Bus} {k : Nat} (h : b.step k = .next b') :
    (b.nodes[k]? = none ∧ b' = b) ∨
    ∃ s t, b.nodes[k]? = some s ∧ s.sampled.edge (b.grant k s.sample) = .next t ∧
      b' = b.settle k t (s.sampled.abandons (b.grant k s.sample)) (s.sampled.delivered (b.grant k s.sample)) := by
  unfold Bus.step at h
  cases hs : b.nodes[k]? with
  | none =>
    rw [hs] at h
    cases h
    exact .inl ⟨rfl, rfl⟩
  | some s =>
    simp only [hs, Bus.edge] at h
    split at h
    · cases h
      exact .inr ⟨s, _, rfl, ‹_›, rfl⟩
    · cases h
    · cases h

/-- No transaction of another instance is open. -/
theorem heldAgainst_eq_false {b : Bus} {k : Nat} :
    b.heldAgainst k = false ↔ ∀ j s, j ≠ k → b.nodes[j]? = some s → s.txnOpen = false := by
  unfold Bus.heldAgainst
  rw [List.any_eq_false]
  constructor
  · intro h j s hj hs
    simpa [hj] using h (s, j) (List.mem_zipIdx_iff_getElem?.mpr hs)
  · rintro h ⟨s, j⟩ hm
    by_cases hj : j = k
    · simp [hj]
    · simp [h j s hj (List.mem_zipIdx_iff_getElem?.mp hm)]

/-- An edge opens a transaction only by an event the transport takes. -/
theorem edge_txnOpen {p : PortSample} {s t : State} (h : s.edge p = .next t) (ho : t.txnOpen = true) :
    s.txnOpen = true ∨ p.evReady = true := by
  obtain ⟨-, he⟩ | ⟨-, e, rest, -, he⟩ | ⟨-, -, -, he⟩ | ⟨-, -, -, he⟩ := edge_cases p s <;> rw [he] at h
  · obtain ⟨c, n, hc⟩ := resetEdge_block p s
    rw [hc] at h
    cases h
    simp at ho
  · cases h
    cases hx : p.evReady
    · exact .inl (by simpa [State.offer, hx] using ho)
    · exact .inr rfl
  · rw [exec_frame h] at ho
    exact .inl (by simpa using ho)
  · cases h
    exact .inl (by simpa using ho)

/-- The instances after an edge of `k`. -/
theorem settle_nodes_self {b : Bus} {k : Nat} {t : State} {a : Bool} {d : Option Event} (hk : k < b.nodes.length) :
    (b.settle k t a d).nodes[k]? = some t := by
  simp [Bus.settle, hk]

theorem settle_nodes_other {b : Bus} {k j : Nat} {t : State} {a : Bool} {d : Option Event} (h : j ≠ k) :
    (b.settle k t a d).nodes[j]? = (b.nodes[j]?).map (State.bystand a d) := by
  simp [Bus.settle, List.getElem?_set_ne (Ne.symm h)]

end Sys2Proof.Machine
end

