-- ==== Sys2Proof/Laws/Encode.lean ====
section
/-! SUPPORT. The fields of a packed word, and what `encode` puts in them. -/

namespace Sys2Proof

@[simp] theorem opField_packWord (op : Nibble) (a b : Operand) : opField (packWord op a b) = op := by
  apply BitVec.eq_of_getLsbD_eq
  intro i hi
  simp only [opField, packWord, BitVec.getLsbD_extractLsb', BitVec.getLsbD_append, hi, decide_true, Bool.true_and]
  have h1 : ¬ 32 + i < 16 := by omega
  have h2 : ¬ 32 + i - 16 < 16 := by omega
  simp only [h1, h2, if_false]
  congr 1
  omega

@[simp] theorem fieldA_packWord (op : Nibble) (a b : Operand) : fieldA (packWord op a b) = a := by
  apply BitVec.eq_of_getLsbD_eq
  intro i hi
  simp only [fieldA, packWord, BitVec.getLsbD_extractLsb', BitVec.getLsbD_append, hi, decide_true, Bool.true_and]
  have h1 : ¬ 16 + i < 16 := by omega
  have h2 : 16 + i - 16 < 16 := by omega
  simp only [h1, h2, if_false, if_true]
  congr 1
  omega

@[simp] theorem fieldB_packWord (op : Nibble) (a b : Operand) : fieldB (packWord op a b) = b := by
  apply BitVec.eq_of_getLsbD_eq
  intro i hi
  simp only [fieldB, packWord, BitVec.getLsbD_extractLsb', BitVec.getLsbD_append, hi, decide_true, Bool.true_and]
  simp [hi]

@[simp] theorem enabledBit_packWord (op : Nibble) (a b : Operand) : enabledBit (packWord op a b) = a.getLsbD 0 := by
  simp only [enabledBit, packWord, BitVec.getLsbD_append]
  simp

@[simp] theorem boolOperand_bit (e : Bool) : (boolOperand e).getLsbD 0 = e := by
  cases e <;> rfl

@[simp] theorem boolOperand_getElem (e : Bool) : (boolOperand e)[0] = e := by
  cases e <;> rfl

/-- A mask acts on the three fields apart. -/
theorem packWord_and (op m : Nibble) (a x b y : Operand) :
    packWord op a b &&& packWord m x y = packWord (op &&& m) (a &&& x) (b &&& y) := by
  apply BitVec.eq_of_getLsbD_eq
  intro i _
  simp only [packWord, BitVec.getLsbD_and, BitVec.getLsbD_append]
  split
  · rfl
  · split <;> rfl

/-- A word is its three fields. -/
theorem packWord_fields (w : CmdWord) : packWord (opField w) (fieldA w) (fieldB w) = w := by
  apply BitVec.eq_of_getLsbD_eq
  intro i hi
  simp only [packWord, opField, fieldA, fieldB, BitVec.getLsbD_append, BitVec.getLsbD_extractLsb']
  split
  · simp [*]
  · split
    · rename_i h1 h2
      simp only [h2, decide_true, Bool.true_and]
      congr 1
      omega
    · rename_i h1 h2
      have h3 : i - 16 - 16 < 4 := by omega
      simp only [h3, decide_true, Bool.true_and]
      congr 1
      omega

/-- A pseudo-command has the word of the command it expands to (spec/30_encoding.md R66). -/
theorem encode_expand (i : Instr) : encode i.expand = encode i := by
  cases i <;> rfl

end Sys2Proof
end

