-- ==== Sys2Proof/Laws/PerInstr.lean ====
section
/-! SUPPORT. The opcode of every command's word (spec/30_encoding.md R51, R60, R66). -/

namespace Sys2Proof.Laws.OpcodeOf

/-- The opcode of the table of 30_encoding.md R51; a reserved command carries its own (R60). -/
def opcode : Instr → Nibble
  | .init => 0x0#4
  | .setvol _ _ => 0x1#4
  | .setgain _ _ => 0x2#4
  | .mute => 0x3#4
  | .setzc _ => 0x4#4
  | .setattlink _ => 0x5#4
  | .setgainlink _ => 0x6#4
  | .reserved7 => 0x7#4
  | .reserved8F op => op
  | .setvol1 _ => 0x1#4
  | .setgain1 _ => 0x2#4

/-- Bits 35:32 of the word are the command's opcode. -/
def Statement (i : Instr) : Prop := opField (encode i) = opcode i

theorem init : Statement .init := opField_packWord _ _ _
theorem setvol (l r : Operand) : Statement (.setvol l r) := opField_packWord _ _ _
theorem setgain (l r : Operand) : Statement (.setgain l r) := opField_packWord _ _ _
theorem mute : Statement .mute := opField_packWord _ _ _
theorem setzc (e : Bool) : Statement (.setzc e) := opField_packWord _ _ _
theorem setattlink (e : Bool) : Statement (.setattlink e) := opField_packWord _ _ _
theorem setgainlink (e : Bool) : Statement (.setgainlink e) := opField_packWord _ _ _
theorem reserved7 : Statement .reserved7 := opField_packWord _ _ _
theorem reserved8F (op : Nibble) : Statement (.reserved8F op) := opField_packWord _ _ _
theorem setvol1 (v : Operand) : Statement (.setvol1 v) := opField_packWord _ _ _
theorem setgain1 (g : Operand) : Statement (.setgain1 g) := opField_packWord _ _ _

end Sys2Proof.Laws.OpcodeOf
end

