-- ==== Sys2Proof/Tests/Slice0.lean ====
section
/-! SUPPORT. Tests, with expected results from spec/95_test_vectors.md and the rules' worked examples, and a witness for the
hypotheses of every statement that has some. -/

namespace Sys2Proof.Tests

open Sys2Proof Sys2Proof.Machine

/-! ## WellFormed: the one check refuses an ill-formed term -/

theorem test_wellFormed_refuses_opcode_7_as_8F : (Instr.reserved8F 0x7#4).wellFormed = false := by decide
theorem test_wellFormed_refuses_opcode_0_as_8F : (Instr.reserved8F 0x0#4).wellFormed = false := by decide
theorem test_wellFormed_accepts_opcodes_8_and_F :
    (Instr.reserved8F 0x8#4).wellFormed = true ∧ (Instr.reserved8F 0xF#4).wellFormed = true := by decide

/-! ## Decoding: words written out from 30_encoding.md R50, R51 -/

theorem test_decode_init : decode 0b000000000000000000000000000000000000#36 = .init := by decide
/-- `SETVOL -40, -60`. -/
theorem test_decode_setvol :
    decode 0b000111111111110110001111111111000100#36 = .setvol (BitVec.ofInt 16 (-40)) (BitVec.ofInt 16 (-60)) := by
  decide
/-- `SETGAIN 10, 63`. -/
theorem test_decode_setgain : decode 0b001000000000000010100000000000111111#36 = .setgain 10#16 63#16 := by decide
theorem test_decode_mute : decode 0b001110101011110011010001001000110100#36 = .mute := by decide
theorem test_decode_setzc : decode 0b010000000000000000010000000000000000#36 = .setzc true := by decide
theorem test_decode_setattlink : decode 0b010100000000000000010000000000000000#36 = .setattlink true := by decide
theorem test_decode_setgainlink : decode 0b011000000000000000000000000000000000#36 = .setgainlink false := by decide
theorem test_decode_reserved7 : decode 0b011100000000000000000000000000000000#36 = .reserved7 := by decide
theorem test_decode_reserved8 : decode 0b100000000000000000000000000000000000#36 = .reserved8F 0x8#4 := by decide
/-- The word of `SETVOL1 -12` is that of `SETVOL -12, -12`. -/
theorem test_decode_setvol1_word :
    encode (.setvol1 (BitVec.ofInt 16 (-12))) = 0b000111111111111101001111111111110100#36 ∧
      decode 0b000111111111111101001111111111110100#36 = .setvol (BitVec.ofInt 16 (-12)) (BitVec.ofInt 16 (-12)) := by
  decide
/-- The word of `SETGAIN1 20` is that of `SETGAIN 20, 20`. -/
theorem test_decode_setgain1_word :
    encode (.setgain1 20#16) = 0b001000000000000101000000000000010100#36 ∧
      decode 0b001000000000000101000000000000010100#36 = .setgain 20#16 20#16 := by decide
/-- Bit 16 alone decides (95_test_vectors.md 2.3). -/
theorem test_decode_ignored_bits : decode 0x4FFFFFFFF#36 = .setzc true ∧ decode 0x5FFFE1234#36 = .setattlink false := by
  decide
theorem test_table_word : decodeTableWord 36 0x1FFD8FFC4 = some (.setvol (BitVec.ofInt 16 (-40)) (BitVec.ofInt 16 (-60))) := by
  decide
theorem test_table_word_too_wide : decodeTableWord 40 0x1000000000 = none := by decide

/-! ## Value encoders (95_test_vectors.md 2.1, 2.2) -/

theorem test_encAtt_range : encAtt (BitVec.ofInt 16 (-40)) = 0x38#8 ∧ encAtt (BitVec.ofInt 16 (-222)) = 0xEE#8 ∧
    encAtt (BitVec.ofInt 16 (-224)) = 0xEF#8 ∧ encAtt (BitVec.ofInt 16 (-32768)) = 0xEF#8 := by decide
theorem test_encAtt_positive : encAtt 1#16 = 0x0F#8 ∧ encAtt 17#16 = 0xFF#8 ∧ encAtt 239#16 = 0x21#8 ∧
    encAtt 32767#16 = 0x11#8 := by decide
theorem test_encGain_range : encGain 62#16 = 0x3E#8 ∧ encGain 70#16 = 0x3F#8 ∧ encGain 256#16 = 0x3F#8 := by decide
theorem test_encGain_negative : encGain (BitVec.ofInt 16 (-193)) = 0x3F#8 ∧ encGain (BitVec.ofInt 16 (-257)) = 0xFF#8 := by
  decide

/-! ## Small states -/

/-- A block after INIT, at rest, with mirror byte `r`, device address `a` and a chip that holds the mirror's byte. -/
def ready (r : Byte) (a : Nibble) : State :=
  { State.powerUp Config.defaultParams 0 a with
    stateRegister := r
    busConfig := some Config.defaultBus
    lineLevel := .high
    trace := [.line 0 .high]
    chip := { Chip.blank with address := a, state := r } }

/-- The frame of the default parameters: data byte `d`, control byte `c`. -/
def defaultFrame (d c : Byte) : List Event :=
  [.txnBegin Config.defaultBus, .line 0 .low, .xfer d, .xfer c, .line 0 .high, .txnEnd]

/-- The mirror byte and the queue of the next state. -/
def effect : Result → Option (Byte × List Event)
  | .next t => some (t.stateRegister, t.pending)
  | .fault _ => none
  | .refused _ => none

/-! ## One step of each command (95_test_vectors.md 2.3, 2.4, 2.6; control bytes with the defaults) -/

theorem test_init_from_reset :
    effect (step (State.reset.withFetchWord 36 0x012345678)) = some (0x20#8, [.line 0 .high]) := by decide
theorem test_second_init : effect (exec .init (ready 0xA0#8 0#4)) = some (0xA0#8, [.line 0 .high]) := by decide
theorem test_setvol_unlinked :
    effect (step ((ready 0x20#8 15#4).withFetchWord 36 0x100108000)) =
      some (0x20#8, defaultFrame 0x00#8 0x0F#8 ++ defaultFrame 0xEF#8 0x2F#8) := by decide
theorem test_setvol_linked :
    effect (step ((ready 0x80#8 0#4).withFetchWord 36 0x1FF9C3039)) = some (0x80#8, defaultFrame 0x74#8 0x00#8) := by
  decide
theorem test_setgain_reads_bit_6_only :
    effect (step ((ready 0xA0#8 0#4).withFetchWord 36 0x2000A003F)) =
      some (0xA0#8, defaultFrame 0x0A#8 0x10#8 ++ defaultFrame 0x3F#8 0x30#8) := by decide
theorem test_setgain_linked :
    effect (step ((ready 0x60#8 0#4).withFetchWord 36 0x200460005)) = some (0x60#8, defaultFrame 0x3F#8 0x10#8) := by
  decide
theorem test_mute_unlinked :
    effect (step ((ready 0x60#8 5#4).withFetchWord 36 0x300000000)) =
      some (0x60#8, defaultFrame 0x00#8 0x05#8 ++ defaultFrame 0x00#8 0x25#8) := by decide
theorem test_mute_linked :
    effect (step ((ready 0xA0#8 5#4).withFetchWord 36 0x3ABCD1234)) = some (0xA0#8, defaultFrame 0x00#8 0x05#8) := by
  decide
theorem test_setzc_clears_bit_5 :
    effect (step ((ready 0xE0#8 0#4).withFetchWord 36 0x400010000)) = some (0xC0#8, defaultFrame 0xC0#8 0x40#8) := by
  decide
theorem test_setzc_sends_even_unchanged :
    effect (step ((ready 0x20#8 0#4).withFetchWord 36 0x400000000)) = some (0x20#8, defaultFrame 0x20#8 0x40#8) := by
  decide
theorem test_setattlink_sets_bit_7 :
    effect (step ((ready 0x60#8 5#4).withFetchWord 36 0x500010000)) = some (0xE0#8, defaultFrame 0xE0#8 0x45#8) := by
  decide
theorem test_setattlink_clears_bit_7 :
    effect (step ((ready 0xA0#8 5#4).withFetchWord 36 0x500000000)) = some (0x20#8, defaultFrame 0x20#8 0x45#8) := by
  decide
theorem test_setgainlink_sets_bit_6 :
    effect (step ((ready 0xA0#8 0#4).withFetchWord 36 0x600010000)) = some (0xE0#8, defaultFrame 0xE0#8 0x40#8) := by
  decide
theorem test_setgainlink_clears_bit_6 :
    effect (step ((ready 0xE0#8 0#4).withFetchWord 36 0x600000000)) = some (0xA0#8, defaultFrame 0xA0#8 0x40#8) := by
  decide
theorem test_reserved_no_effect :
    effect (step ((ready 0x20#8 0#4).withFetchWord 36 0x700000000)) = some (0x20#8, []) ∧
      effect (step ((ready 0x20#8 0#4).withFetchWord 36 0xF00000000)) = some (0x20#8, []) := by decide
theorem test_setvol1 :
    effect (exec (.setvol1 (BitVec.ofInt 16 (-12))) (ready 0x20#8 0#4)) =
      some (0x20#8, defaultFrame 0x1C#8 0x00#8 ++ defaultFrame 0x1C#8 0x20#8) := by decide
theorem test_setgain1 :
    effect (exec (.setgain1 20#16) (ready 0x20#8 0#4)) =
      some (0x20#8, defaultFrame 0x14#8 0x10#8 ++ defaultFrame 0x14#8 0x30#8) := by decide
/-- 95_test_vectors.md P5: refused before INIT, from reset. -/
theorem test_setvol_before_init : step (State.reset.withFetchWord 36 0x1FFD8FFC4) = .refused .beforeInit := rfl

/-! ## Ports, reset, chip, assembler, bus -/

theorem test_event_delivered :
    ∃ t, step { ready 0x20#8 0#4 with pending := defaultFrame 0x20#8 0x40#8 } = .next t ∧
      t.trace = [.line 0 .high, .txnBegin Config.defaultBus] ∧ t.txnOpen = true ∧ t.pending.length = 5 :=
  ⟨_, rfl, by decide, by decide, by decide⟩
theorem test_reset_wins :
    ∃ t, step { ready 0xE0#8 0#4 with inputs := [{ PortSample.command 0x1FFD8FFC4#36 with rst := true, strap := 9#4 }] } =
        .next t ∧ t.stateRegister = 0x20#8 ∧ t.deviceAddress = 9#4 ∧ t.pending = [] ∧ t.busConfig = none :=
  ⟨_, rfl, by decide, by decide, by decide, by decide⟩
/-- 20_memory.md R38: one write to the left address sets both channels while the chip's link flag is 1. -/
theorem test_chip_mirrors_when_linked :
    (Chip.deliver Config.defaultCtrl (fun _ => 0#8) 0 0x24#8 0x05#8 { Chip.blank with address := 5#4, state := 0xA0#8 }).1 =
      { Chip.blank with address := 5#4, state := 0xA0#8, attL := 0x24#8, attR := 0x24#8 } := by decide
theorem test_chip_ignores_other_address :
    (Chip.deliver Config.defaultCtrl (fun _ => 0#8) 0 0x24#8 0x04#8 { Chip.blank with address := 5#4 }).1 =
      { Chip.blank with address := 5#4 } := by decide
/-- 95_test_vectors.md P1, two of its lines. -/
theorem test_assemble :
    assemble
      [['S', 'E', 'T', 'V', 'O', 'L', ' ', '-', '4', '0', ',', ' ', '-', '6', '0', ' ', ' ', ';', ' ', 'd', 'B'],
        [' ', ';'], ['S', 'E', 'T', 'G', 'A', 'I', 'N', '1', ' ', '0', 'x', 'A']] =
      some [0x1FFD8FFC4#36, 0x2000A000A#36] := by decide
theorem test_assemble_rejects :
    assembleLine ['S', 'E', 'T', 'Z', 'C', ' ', '2'] = none ∧
      assembleLine ['S', 'E', 'T', 'V', 'O', 'L', '1', ' ', '3', '2', '7', '6', '8'] = none ∧
      assembleLine ['I', 'N', 'I', 'T', ' ', '1'] = none := by decide
/-- The transport takes no event of instance 1 while instance 0 has a transaction open. -/
theorem test_bus_excludes :
    let b : Bus :=
      { nodes := [{ ready 0x20#8 0#4 with txnOpen := true },
          { ready 0xA0#8 1#4 with selectLine := 1, pending := [.txnBegin Config.defaultBus] }], log := [] }
    (b.heldAgainst 1 = true ∧ b.heldAgainst 0 = false) ∧ ∃ b', b.step 1 = .next b' ∧ b'.log = [] := by
  exact ⟨by decide, _, rfl, by decide⟩

/-- The model's choice of log 22: a reset in the middle of a frame cuts the frame off for another instance's chip. -/
theorem test_bus_reset_mid_frame :
    let b : Bus :=
      { nodes := [{ ready 0x20#8 0#4 with
            txnOpen := true, pending := [.xfer 0x40#8, .line 0 .high, .txnEnd], inputs := [{ PortSample.quiet with rst := true }] },
          { ready 0xA0#8 1#4 with
            selectLine := 1, chip := { Chip.blank with address := 1#4, rx := .collecting [0x20#8] } }], log := [] }
    ∃ b', b.step 0 = .next b' ∧ (b'.nodes[1]?).map (fun s => s.chip.rx) = some .truncated :=
  ⟨_, rfl, by decide⟩
/-- Instance 1 is in the middle of a frame to its own chip; instance 0, which waits for the bus, is reset. -/
def waitingReset : Bus :=
  { nodes := [{ ready 0x20#8 0#4 with
        pending := defaultFrame 0x20#8 0x40#8, inputs := [{ PortSample.quiet with rst := true }] },
      { ready 0xA0#8 1#4 with
        selectLine := 1, txnOpen := true
        chip := { Chip.blank with address := 1#4, rx := .collecting [0x20#8] } }], log := [] }
/-- 20_memory.md R37, 70_reset_and_hazards.md R136: nothing of instance 0 was on the bus, so instance 1's frame is whole. -/
theorem test_bus_reset_while_waiting :
    ∃ b', waitingReset.step 0 = .next b' ∧ b'.nodes[1]? = waitingReset.nodes[1]? :=
  ⟨_, rfl, rfl⟩
/-- 10_state.md R22: `ev_data` is zero while nothing is offered. -/
theorem test_port_outputs :
    (ready 0x20#8 0#4).evData = 0#8 ∧ (ready 0x20#8 0#4).evValid = false ∧
      State.evData { ready 0x20#8 0#4 with pending := [.xfer 0x45#8] } = 0x45#8 ∧
      State.evKind { ready 0x20#8 0#4 with pending := [.xfer 0x45#8] } = some 2#3 := by decide
/-- A power cycle of the chip alone (70_reset_and_hazards.md R142) leaves the block, and a frame on its way is lost. -/
theorem test_chip_power_cycle :
    ∃ t, step { ready 0xA0#8 0#4 with
        chip := { Chip.blank with rx := .collecting [0x20#8] }
        inputs := [{ PortSample.quiet with chipUpset := .powerCycle }] } = .next t ∧
      t.stateRegister = 0xA0#8 ∧ t.chip.rx = .truncated ∧ t.freeIndex = 10 :=
  ⟨_, rfl, by decide, by decide, by decide⟩
/-- Hexadecimal letters stand for ten to fifteen; no other character is a digit. -/
theorem test_digits :
    (AsmOperand.mk ['0', 'x', '9', 'a', 'F']).value = some 0x9AF ∧ (AsmOperand.mk ['0', 'x', 'G']).value = none ∧
      (AsmOperand.mk ['1', 'A']).value = none ∧ (AsmOperand.mk ['-', '2', '2', '3']).value = some (-223) := by decide

/-! ## Witnesses: the hypotheses of every statement are met -/

theorem witness_DecodingAnEncodedCommandGivesItsExpansion :
    (Instr.setvol1 0x8000#16).wellFormed = true ∧ (Instr.reserved8F 0x8#4).wellFormed = true ∧
      (Instr.reserved8F 0xF#4).wellFormed = true := by decide
theorem witness_IgnoredBitsDoNotMatter :
    (0x4FFFFFFFF#36 &&& usedBits 0x4FFFFFFFF#36 = 0x400010000#36 &&& usedBits 0x4FFFFFFFF#36 ∧
      (0x4FFFFFFFF#36 : CmdWord) ≠ 0x400010000#36) ∧
    (0x012345678#36 &&& usedBits 0x012345678#36 = 0x000000000#36 &&& usedBits 0x012345678#36) := by decide
theorem witness_AssemblerBuildsTheWordsOfTheTable :
    (AsmOperand.mk ['-', '3', '2', '7', '6', '8']).value = some (-32768) ∧
    (AsmOperand.mk ['3', '2', '7', '6', '7']).value = some 32767 ∧
    (AsmOperand.mk ['-', '3', '2', '7', '6', '9']).value = some (-32769) ∧
    (AsmOperand.mk ['0', 'x', '8', '0', '0', '0']).value = some 32768 := by decide
theorem witness_AttenuationByteOnTheDocumentedRange :
    (-223 ≤ (BitVec.ofInt 16 (-223) : Operand).toInt ∧ (BitVec.ofInt 16 (-223) : Operand).toInt < (0#16 : Operand).toInt ∧
      (0#16 : Operand).toInt ≤ 0) ∧
    (BitVec.ofInt 16 (-224) : Operand).toInt < -223 ∧ (BitVec.ofInt 16 (-32768) : Operand).toInt < -223 := by decide
theorem witness_AttenuationByteOfPositiveOperands :
    0 < (17#16 : Operand).toInt ∧ 0 < (32767#16 : Operand).toInt ∧ 1 ≤ (1#16 : Operand).toInt ∧
      1 ≤ (16#16 : Operand).toInt ∧ (16#16 : Operand).toInt ≤ 16 := by decide
theorem witness_GainByteOnTheDocumentedRange :
    (0 ≤ (0#16 : Operand).toInt ∧ (63#16 : Operand).toInt ≤ 63) ∧ 63 < (64#16 : Operand).toInt := by decide
theorem witness_GainByteOfNegativeOperands :
    (BitVec.ofInt 16 (-1) : Operand).toInt < 0 ∧ (BitVec.ofInt 16 (-32768) : Operand).toInt < 0 := by decide
theorem witness_EncoderPeriodsAndTheZeroByte :
    ((1#16 : Operand).toInt = (257#16 : Operand).toInt - 256 ∧ 1 ≤ (1#16 : Operand).toInt) ∧
    ((BitVec.ofInt 16 (-257) : Operand).toInt = (BitVec.ofInt 16 (-1) : Operand).toInt - 256 ∧
      (BitVec.ofInt 16 (-1) : Operand).toInt ≤ -1) ∧
    (encAtt 16#16 = muteByte ∧ encAtt 32528#16 = muteByte) ∧
    (-223 ≤ (BitVec.ofInt 16 (-223) : Operand).toInt ∧ (0#16 : Operand).toInt ≤ 0) := by decide
theorem witness_TransferIsSixEventsDataByteFirst :
    let s := { ready 0xA0#8 5#4 with pending := defaultFrame 0xA0#8 0x45#8 }
    s.pending = s.frame Config.defaultBus s.params.ctrl.state 0xA0#8 := by decide

/-- Serves SetzcWritesBitFiveInvertedAndSendsTheByte, SetattlinkWritesBitSevenAndSendsTheByte,
SetgainlinkWritesBitSixAndSendsTheByte, StateBitCommandsFollowTheNextStateFormulas, SetvolWritesOneOrTwoAttenuations,
SetgainWritesOneOrTwoGains, MuteWritesTheRawByteZero, SetvolOneSetsBothChannelsToOneValue,
SetgainOneSetsBothChannelsToOneValue, FirstInitSetsTheBusConfiguration, SecondInitOnlyDrivesTheLineAgain,
ReservedCommandsHaveNoEffect, OnlyCommandsBeforeInitAreRefused, CommandsQueueSixOrTwelveEvents and
UnusedRightOperandAndMuteAsSetvolSixteen: `busConfig` unset and set, each link bit clear and set. -/
theorem witness_busConfig_and_link_bits :
    State.reset.busConfig = none ∧ (ready 0x20#8 0#4).busConfig = some (ready 0x20#8 0#4).params.bus ∧
    ((ready 0x20#8 0#4).stateRegister.getLsbD 7 = false ∧ (ready 0xA0#8 0#4).stateRegister.getLsbD 7 = true) ∧
    ((ready 0x20#8 0#4).stateRegister.getLsbD 6 = false ∧ (ready 0x60#8 0#4).stateRegister.getLsbD 6 = true) := by
  decide
theorem witness_CommandsChangeOnlyWhatTheyName :
    ∃ t, exec (.setattlink true) (ready 0x20#8 0#4) = .next t ∧
      t.stateRegister.getLsbD 7 ≠ (ready 0x20#8 0#4).stateRegister.getLsbD 7 := ⟨_, rfl, by decide⟩
theorem witness_LevelCommandsReadOneLinkBit :
    ((0x60#8 : Byte).getLsbD 7 = (ready 0x20#8 0#4).stateRegister.getLsbD 7 ∧
      (0xA0#8 : Byte).getLsbD 6 = (ready 0x20#8 0#4).stateRegister.getLsbD 6) ∧
    (∃ t, exec (.setvol 0#16 0#16) (ready 0x20#8 0#4) = .next t) ∧ (∃ t, exec .mute (ready 0x20#8 0#4) = .next t) ∧
    ∃ t, exec (.setgain 0#16 0#16) (ready 0x20#8 0#4) = .next t :=
  ⟨by decide, ⟨_, rfl⟩, ⟨_, rfl⟩, ⟨_, rfl⟩⟩

/-- A block at rest to which `MUTE` is presented, with `SETZC 1` to follow. -/
def offered : State :=
  { ready 0x20#8 0#4 with inputs := [PortSample.command (encode .mute), PortSample.command 0x400010000#36] }

theorem witness_StepRunsTheDecodedCommand :
    offered.sample.rst = false ∧ offered.pending = [] ∧ offered.sample.cmdValid = true ∧
      offered.sample.chipUpset = .steady ∧ offered.sample.cmdWord = encode .mute ∧ Instr.mute.wellFormed = true := by
  decide

/-- A busy block with quiet wires. -/
def busy : State := { ready 0x20#8 0#4 with pending := defaultFrame 0x20#8 0x40#8 }

/-- A busy block whose transport is not ready. -/
def stalled : State := { busy with inputs := [{ PortSample.quiet with evReady := false }] }

theorem witness_BusyBlockDeliversItsNextEvent :
    (∃ e rest, busy.pending = e :: rest) ∧ busy.sample.rst = false ∧ busy.sample.evReady = true :=
  ⟨⟨_, _, rfl⟩, by decide, by decide⟩
theorem witness_BlockWaitsForTransportAndHost :
    (stalled.sample.rst = false ∧ stalled.pending ≠ [] ∧ stalled.sample.evReady = false) ∧
      ((ready 0x20#8 0#4).sample.rst = false ∧ (ready 0x20#8 0#4).pending = [] ∧
        (ready 0x20#8 0#4).sample.cmdValid = false) := by decide

/-- The reset input high, an idle and a busy block. -/
def rstSample : PortSample := { PortSample.quiet with rst := true, strap := 7#4 }

theorem witness_ResetEdgeGivesTheResetValues_and_ResetTouchesTheChipOnlyMidCommand :
    (State.sample { busy with inputs := [rstSample] }).rst = true ∧
      (State.sample { busy with inputs := [rstSample] }).chipUpset = .steady ∧
      busy.pending ≠ [] ∧ (ready 0x20#8 0#4).pending = [] := by decide
theorem witness_PortCodesIdentifyTheEvents :
    (Event.xfer 0x45#8).kind = (Event.xfer 0x45#8).kind ∧ Event.txnEnd.kind ≠ 2#3 := by decide
theorem witness_IdentityIsImmutableBetweenResets :
    ∃ t, step { State.reset with inputs := [PortSample.command 0#36] } = .next t ∧
      (State.sample { State.reset with inputs := [PortSample.command 0#36] }).rst = false ∧ t.busConfig ≠ none :=
  ⟨_, rfl, by decide, by decide⟩
theorem witness_MirrorBitsChangeOnlyByTheirOwnCommand :
    ∃ t, step { ready 0x20#8 0#4 with inputs := [PortSample.command 0x500010000#36] } = .next t ∧
      t.stateRegister.getLsbD 7 ≠ (ready 0x20#8 0#4).stateRegister.getLsbD 7 :=
  ⟨_, rfl, by decide⟩

theorem ready_inv (a : Nibble) : (ready 0x20#8 a).Inv where
  reserved_zero := by simp [ready]
  pending_le := by simp [ready, State.powerUp]
  config := .inr rfl
  started := by simp [ready, State.powerUp, State.initDone]
  lineLevel_eq := rfl
  txnOpen_eq := rfl
  items := ⟨[none], by simp, rfl⟩

theorem ready_framed (a : Nibble) : (ready 0x20#8 a).FramedTrace := .inr ⟨rfl, [], by simp, rfl⟩

theorem witness_EveryStepKeepsTheInvariant :
    { ready 0x20#8 0#4 with inputs := offered.inputs }.Inv ∧
      ∃ t, step { ready 0x20#8 0#4 with inputs := offered.inputs } = .next t ∧ t.pending.length = 12 :=
  ⟨{ ready_inv 0#4 with }, _, rfl, by decide⟩
/-- Serves EightStateBytesAreReachable, IdleBlockHoldsTheLineHigh and AcceptedCommandRetiresWithinTwelveEdges. -/
theorem witness_Inv_at_rest :
    (ready 0x20#8 0#4).Inv ∧ (ready 0x20#8 0#4).atRest ∧ (ready 0x20#8 0#4).initDone = true ∧
      (ready 0x20#8 0#4).inputs = [] ∧ (ready 0x20#8 0#4).stateRegister = 0x20#8 :=
  ⟨ready_inv 0#4, by decide, by decide, by decide, by decide⟩
theorem witness_ContractKeepsTheTraceShape :
    offered.Inv ∧ offered.FramedTrace ∧ offered.nextInContract = true ∧ ∃ t, step offered = .next t :=
  ⟨{ ready_inv 0#4 with }, ready_framed 0#4, by decide, _, rfl⟩
theorem witness_EventsAreNeverReorderedRepeatedOrDropped :
    (∃ t, step busy = .next t ∧ t.trace ≠ busy.trace) ∧ busy.sample.rst = false :=
  ⟨⟨_, rfl, by decide⟩, by decide⟩

/-- `MUTE` presented to a block at rest, quiet wires after it. -/
def presented : State := { ready 0x20#8 0#4 with inputs := [PortSample.command 0x300000000#36] }

theorem witness_EdgesOfACommandAreItsAtomicStep :
    presented.sample.rst = false ∧ presented.sample.chipUpset = .steady ∧ presented.sample.cmdValid = true ∧
      presented.atRest ∧
      ∃ t, exec (decode presented.sample.cmdWord) presented.sampled = .next t ∧ t.pending.length = 12 ∧
        ∀ p ∈ t.inputs.take t.pending.length, p.calm = true :=
  ⟨by decide, by decide, by decide, by decide, _, rfl, by decide, by decide⟩
theorem witness_ChipCannotInfluenceTheBlock :
    (ready 0x20#8 0#4).blockOnly = { ready 0x20#8 0#4 with chip := Chip.blank, freeIndex := 9 }.blockOnly ∧
      (ready 0x20#8 0#4).chip ≠ Chip.blank := by decide
/-- Serves StateBitCommandMakesTheChipAgree, SetvolStoresOnlyAttenuations, SetgainStoresOnlyGains and
LeftChannelIsNewBeforeTheRightOne: link bits of mirror and chip in all four combinations. -/
theorem witness_chip_at_rest :
    ((ready 0x20#8 5#4).busConfig ≠ none ∧ (ready 0x20#8 5#4).atRest ∧ (ready 0x20#8 5#4).chip.rx = .idle ∧
      (ready 0x20#8 5#4).chip.address = (ready 0x20#8 5#4).deviceAddress ∧ (ready 0x20#8 5#4).params.ctrl.distinct ∧
      (ready 0x20#8 5#4).inputs = [] ∧ (ready 0x20#8 5#4).attLink = false ∧ (ready 0x20#8 5#4).gainLink = false ∧
      (ready 0x20#8 5#4).chip.state.getLsbD 7 = false ∧ (ready 0x20#8 5#4).chip.state.getLsbD 6 = false) ∧
    ((ready 0xE0#8 5#4).attLink = true ∧ (ready 0xE0#8 5#4).gainLink = true ∧
      (ready 0xE0#8 5#4).chip.state.getLsbD 7 = true ∧ (ready 0xE0#8 5#4).chip.state.getLsbD 6 = true) ∧
    { ready 0x20#8 5#4 with stateRegister := 0xE0#8 }.chip.state.getLsbD 7 = false ∧
    { ready 0xE0#8 5#4 with stateRegister := 0x20#8 }.chip.state.getLsbD 7 = true := by decide
theorem witness_CleanStepsKeepMirrorAndChipInAgreement :
    presented.Mirrored ∧ presented.sample.clean = true ∧ ∃ t, step presented = .next t :=
  ⟨⟨by decide, by decide, by decide, by decide⟩, by decide, _, rfl⟩
theorem witness_ChipTakesItsOwnFrames :
    Config.defaultCtrl.distinct ∧ (4#4 : Nibble) ≠ { Chip.blank with address := 5#4 }.address ∧
      { Chip.blank with state := 0xC0#8 }.state.getLsbD 7 = true ∧ { Chip.blank with state := 0xC0#8 }.state.getLsbD 6 = true ∧
      Chip.blank.state.getLsbD 7 = false ∧ Chip.blank.state.getLsbD 6 = false := by decide

/-- An instance in the middle of its frame: the select line goes low next. -/
def begun : State :=
  { ready 0x20#8 0#4 with
    trace := [.line 0 .high, .txnBegin Config.defaultBus]
    pending := (defaultFrame 0x20#8 0x40#8).tail
    txnOpen := true }

theorem begun_inv : begun.Inv where
  reserved_zero := by decide
  pending_le := by decide
  config := .inr rfl
  started := by decide
  lineLevel_eq := rfl
  txnOpen_eq := rfl
  items := ⟨[none, some (0x4#4, 0x20#8)], by rintro f hf; simp at hf; subst hf; decide, by decide⟩

/-- Two instances on select lines of their own, one of them with a transaction open. -/
def twoNodes : Bus :=
  { nodes := [begun, { ready 0xA0#8 1#4 with selectLine := 1, trace := [.line 1 .high] }], log := [] }

theorem witness_BusStepsKeepTransactionsExclusive_and_NoEventFallsIntoAnothersTransaction :
    twoNodes.Exclusive ∧ twoNodes.DistinctLines ∧ begun.Inv ∧
      ∃ b', twoNodes.step 0 = .next b' ∧ b'.log = twoNodes.log ++ [(0, .line 0 .low)] := by
  refine ⟨?_, (by decide : [0, 1].Nodup), begun_inv, _, rfl, by decide⟩
  intro j k s t hs ht os ot
  match j, k, hs, ht with
  | 0, 0, _, _ => rfl
  | 0, 1, _, ht => simp [twoNodes] at ht; subst ht; exact absurd ot (by decide)
  | 0, k + 2, _, ht => simp [twoNodes] at ht
  | 1, _, hs, _ => simp [twoNodes] at hs; subst hs; exact absurd os (by decide)
  | j + 2, _, hs, _ => simp [twoNodes] at hs

/-- The reset clause of NoEventFallsIntoAnothersTransaction. -/
theorem witness_reset_outside_a_transaction :
    (waitingReset.nodes[0]?).map (fun s => (s.sample.rst, s.txnOpen)) = some (true, false) ∧
      ∃ b', waitingReset.step 0 = .next b' := ⟨by decide, _, rfl⟩

theorem witness_ChipUpsetsLeaveUnknownRegisters :
    ((State.sample { busy with inputs := [{ PortSample.quiet with chipUpset := .powerCycle }] }).chipUpset = .powerCycle ∧
      (State.sample { busy with inputs := [{ PortSample.quiet with chipUpset := .powerCycle }] }).rst = false) ∧
    ((State.sample { busy with inputs := [{ rstSample with chipUpset := .reset }] }).chipUpset = .reset ∧
      (State.sample { busy with inputs := [{ rstSample with chipUpset := .reset }] }).rst = true) := by decide

/-- `SETVOL` and `SETGAIN` words with negative operands. -/
theorem witness_OperandIsTwosComplement :
    (0x1FFD8FFC4#36).extractLsb' 32 4 = 0x1#4 ∧ (0x2FF007FFF#36).extractLsb' 32 4 = 0x2#4 := by decide

end Sys2Proof.Tests
end

section
/-! The value encoders (40_value_encoders.md R70 to R79): what the low byte of an integer is, and what each encoder
answers on either side of its clamp; then the documented ranges (R71, R75). -/

namespace Sys2Proof.Machine

/-- R78 (e): the byte is the residue mod 256, also of a negative integer. -/
theorem lowByte_toNat (x : Int) : ((lowByte x).toNat : Int) = x % 256 := by
  simp only [lowByte, BitVec.toNat_ofInt]
  omega

theorem lowByte_toNat_of_in_range {x : Int} (h0 : 0 ≤ x) (h256 : x < 256) : ((lowByte x).toNat : Int) = x := by
  rw [lowByte_toNat, Int.emod_eq_of_lt h0 h256]

/-- At and below -223 the clamp of `EncAtt` acts: the byte is constant. -/
theorem encAtt_of_le {v : Operand} (h : v.toInt ≤ -223) : encAtt v = 0xEF#8 := by
  have clamped : min (-v.toInt) attClamp = attClamp := min_eq_right (by simp only [attClamp]; omega)
  rw [encAtt, clamped]
  rfl

/-- From -223 up the clamp of `EncAtt` does not act, for positive operands neither (R72). -/
theorem encAtt_of_ge {v : Operand} (h : -223 ≤ v.toInt) : encAtt v = lowByte (16 - v.toInt) := by
  have unclamped : min (-v.toInt) attClamp = -v.toInt := min_eq_left (by simp only [attClamp]; omega)
  rw [encAtt, unclamped, attOffset, neg_add_eq_sub]

/-- At and above 63 the clamp of `EncGain` acts: the byte is constant. -/
theorem encGain_of_ge {g : Operand} (h : 63 ≤ g.toInt) : encGain g = 0x3F#8 := by
  have clamped : min g.toInt gainClamp = gainClamp := min_eq_right h
  rw [encGain, clamped]
  rfl

/-- Up to 63 the clamp of `EncGain` does not act, for negative operands neither (R76). -/
theorem encGain_of_le {g : Operand} (h : g.toInt ≤ 63) : encGain g = lowByte g.toInt := by
  have unclamped : min g.toInt gainClamp = g.toInt := min_eq_left h
  rw [encGain, unclamped]

/-- R71: on -223..0 the sum fits the byte, so its reduction changes nothing. -/
theorem encAtt_toNat_of_documented {v : Operand} (hlo : -223 ≤ v.toInt) (hhi : v.toInt ≤ 0) :
    ((encAtt v).toNat : Int) = 16 - v.toInt := by
  rw [encAtt_of_ge hlo]
  exact lowByte_toNat_of_in_range (by omega) (by omega)

/-- R75: on 0..63 the operand fits the byte. -/
theorem encGain_toNat_of_documented {g : Operand} (hlo : 0 ≤ g.toInt) (hhi : g.toInt ≤ 63) :
    ((encGain g).toNat : Int) = g.toInt := by
  rw [encGain_of_le hhi]
  exact lowByte_toNat_of_in_range hlo (by omega)

/-- Settles O8: on -223..0 from the exact value of the byte, below -223 from the clamp. -/
theorem attenuationByteOnTheDocumentedRange : Obligations.AttenuationByteOnTheDocumentedRange := by
  refine ⟨fun v hlo hhi => ?value, fun v w hlo hlt hhi => ?strict, by decide, by decide, fun v hv => ?clamped⟩
  case value =>
    have byte := encAtt_toNat_of_documented hlo hhi
    omega
  case strict =>
    have byteV := encAtt_toNat_of_documented (v := v) (by omega) hhi
    have byteW := encAtt_toNat_of_documented (v := w) hlo (by omega)
    omega
  case clamped =>
    have byteV : encAtt v = 0xEF#8 := encAtt_of_le hv.le
    have byteBound : encAtt (BitVec.ofInt 16 (-223)) = 0xEF#8 := encAtt_of_le (by decide)
    exact ⟨byteV, byteV.trans byteBound.symm⟩

/-- Settles O10: on 0..63 from the exact value of the byte, above 63 from the clamp. -/
theorem gainByteOnTheDocumentedRange : Obligations.GainByteOnTheDocumentedRange := by
  refine ⟨fun g hlo hhi => encGain_toNat_of_documented hlo hhi, fun g hg => ?clamped⟩
  case clamped =>
    have byteG : encGain g = 0x3F#8 := encGain_of_ge hg.le
    have byteBound : encGain 63#16 = 0x3F#8 := encGain_of_ge (by decide)
    exact ⟨byteG, byteG.trans byteBound.symm⟩

end Sys2Proof.Machine
end

section
/-! The state-bit commands (41_state_setters.md R80 to R86): each is one write of one mirror bit followed by one frame with
the whole byte, so what that shape does before and after INIT is said once, for any bit. -/

namespace Sys2Proof.Machine

theorem exec_setzc (e : Bool) (s : State) :
    exec (.setzc e) s = s.writeStateByte (withBit 5 (!e) s.stateRegister) := rfl

theorem exec_setattlink (e : Bool) (s : State) :
    exec (.setattlink e) s = s.writeStateByte (withBit 7 e s.stateRegister) := rfl

theorem exec_setgainlink (e : Bool) (s : State) :
    exec (.setgainlink e) s = s.writeStateByte (withBit 6 e s.stateRegister) := rfl

theorem writeStateByte_beforeInit {s : State} (h : s.busConfig = none) (b : Byte) :
    s.writeStateByte b = .refused .beforeInit :=
  afterInit_none h _

/-- R53: the operand that the assembler puts in field A is the bit the decoder reads. -/
theorem enabledBit_packWord_boolOperand (op : Nibble) (e : Bool) (b : Operand) :
    enabledBit (packWord op (boolOperand e) b) = e :=
  (enabledBit_packWord op _ b).trans (boolOperand_bit e)

/-- R86: after INIT the mirror changes in the bit written alone, and one frame with the new byte joins the queue. -/
theorem writeStateByte_withBit_afterInit {i : Nat} (hi : i < 8) (b : Bool) {s : State} {cfg : BusConfig}
    (h : s.busConfig = some cfg) :
    ∃ t, s.writeStateByte (withBit i b s.stateRegister) = .next t ∧
      t.stateRegister.getLsbD i = b ∧
      (∀ j, j ≠ i → t.stateRegister.getLsbD j = s.stateRegister.getLsbD j) ∧
      t = { s with
        stateRegister := t.stateRegister
        pending := s.pending ++ s.frame cfg s.params.ctrl.state t.stateRegister } := by
  refine ⟨_, writeStateByte_eq_next.mpr ⟨cfg, h, rfl⟩, ?written, fun j hj => ?others, rfl⟩
  case written => exact (withBit_getLsbD i i hi b _).trans (if_pos rfl)
  case others => exact (withBit_getLsbD i j hi b _).trans (if_neg hj)

/-- Settles O15: the write of bit 5 with the inverted operand. -/
theorem setzcWritesBitFiveInvertedAndSendsTheByte : Obligations.SetzcWritesBitFiveInvertedAndSendsTheByte := by
  intro e s
  rw [exec_setzc]
  exact ⟨Laws.OpcodeOf.setzc e, enabledBit_packWord_boolOperand _ e _, fun h => writeStateByte_beforeInit h _,
    fun _ h => writeStateByte_withBit_afterInit (by decide) (!e) h⟩

/-- Settles O16: the write of bit 7 with the operand. -/
theorem setattlinkWritesBitSevenAndSendsTheByte : Obligations.SetattlinkWritesBitSevenAndSendsTheByte := by
  intro e s
  rw [exec_setattlink]
  exact ⟨Laws.OpcodeOf.setattlink e, enabledBit_packWord_boolOperand _ e _, fun h => writeStateByte_beforeInit h _,
    fun _ h => writeStateByte_withBit_afterInit (by decide) e h⟩

/-- Settles O17: the write of bit 6 with the operand. -/
theorem setgainlinkWritesBitSixAndSendsTheByte : Obligations.SetgainlinkWritesBitSixAndSendsTheByte := by
  intro e s
  rw [exec_setgainlink]
  exact ⟨Laws.OpcodeOf.setgainlink e, enabledBit_packWord_boolOperand _ e _, fun h => writeStateByte_beforeInit h _,
    fun _ h => writeStateByte_withBit_afterInit (by decide) e h⟩

end Sys2Proof.Machine
end

section
/-! The level setters (42_level_setters.md R90 to R98): each is one write of the left channel, followed by one of the
right channel unless they are linked. What that shape does is said once, for any link bit, addresses and bytes. -/

namespace Sys2Proof.Machine

theorem exec_setvol (l r : Operand) (s : State) :
    exec (.setvol l r) s = s.writeChannels (s.stateRegister.getLsbD 7) s.params.ctrl.attL s.params.ctrl.attR
      (encAtt l) (encAtt r) := rfl

theorem exec_setgain (l r : Operand) (s : State) :
    exec (.setgain l r) s = s.writeChannels (s.stateRegister.getLsbD 6) s.params.ctrl.gainL s.params.ctrl.gainR
      (encGain l) (encGain r) := rfl

theorem exec_mute (s : State) :
    exec .mute s = s.writeChannels (s.stateRegister.getLsbD 7) s.params.ctrl.attL s.params.ctrl.attR
      0x00#8 0x00#8 := rfl

/-- A pseudo-command is executed as the command it expands to (R92, R96). -/
theorem exec_expand (i : Instr) (s : State) : exec i.expand s = exec i s := by
  cases i <;> rfl

theorem writeChannels_beforeInit {s : State} (h : s.busConfig = none) (linked : Bool) (cl cr : Nibble) (dl dr : Byte) :
    s.writeChannels linked cl cr dl dr = .refused .beforeInit :=
  afterInit_none h _

section AfterInit

variable {s : State} {cfg : BusConfig} {linked : Bool} (h : s.busConfig = some cfg) (cl cr : Nibble) (dl dr : Byte)

include h

theorem writeChannels_of_linked (hl : linked = true) :
    s.writeChannels linked cl cr dl dr = .next { s with pending := s.pending ++ s.frame cfg cl dl } := by
  subst hl
  exact writeChannels_eq_next.mpr ⟨cfg, h, rfl⟩

theorem writeChannels_of_unlinked (hl : linked = false) :
    s.writeChannels linked cl cr dl dr =
      .next { s with pending := s.pending ++ (s.frame cfg cl dl ++ s.frame cfg cr dr) } := by
  subst hl
  exact writeChannels_eq_next.mpr ⟨cfg, h, rfl⟩

/-- The left frame is queued either way (R100): the link bit decides only whether the right one follows. -/
theorem writeChannels_left_then_right :
    s.writeChannels linked cl cr dl dr =
      .next { s with pending := s.pending ++ (s.frame cfg cl dl ++ if linked then [] else s.frame cfg cr dr) } := by
  cases linked with
  | true => simpa using writeChannels_of_linked h cl cr dl dr rfl
  | false => exact writeChannels_of_unlinked h cl cr dl dr rfl

end AfterInit

/-- Settles O19: the shape with bit 7, the attenuation addresses and `EncAtt`. -/
theorem setvolWritesOneOrTwoAttenuations : Obligations.SetvolWritesOneOrTwoAttenuations := by
  intro l r s
  rw [exec_setvol]
  exact ⟨Laws.OpcodeOf.setvol l r, fieldA_packWord _ l r, fieldB_packWord _ l r,
    fun h => writeChannels_beforeInit h _ _ _ _ _,
    fun _ h => ⟨writeChannels_of_linked h _ _ _ _, writeChannels_of_unlinked h _ _ _ _⟩⟩

/-- Settles O20: the shape with bit 6, the gain addresses and `EncGain`. -/
theorem setgainWritesOneOrTwoGains : Obligations.SetgainWritesOneOrTwoGains := by
  intro l r s
  rw [exec_setgain]
  exact ⟨Laws.OpcodeOf.setgain l r, fieldA_packWord _ l r, fieldB_packWord _ l r,
    fun h => writeChannels_beforeInit h _ _ _ _ _,
    fun _ h => ⟨writeChannels_of_linked h _ _ _ _, writeChannels_of_unlinked h _ _ _ _⟩⟩

/-- Settles O21: the shape with bit 7, the attenuation addresses and the raw byte, which no encoder has touched. -/
theorem muteWritesTheRawByteZero : Obligations.MuteWritesTheRawByteZero := by
  intro s
  rw [exec_mute]
  exact ⟨Laws.OpcodeOf.mute, fun h => writeChannels_beforeInit h _ _ _ _ _,
    fun _ h => ⟨writeChannels_of_linked h _ _ _ _, writeChannels_of_unlinked h _ _ _ _⟩⟩

/-- Settles O22: SETVOL1 expands to SETVOL with its operand twice, in word and in effect. -/
theorem setvolOneSetsBothChannelsToOneValue : Obligations.SetvolOneSetsBothChannelsToOneValue := by
  intro v s
  have effect : exec (.setvol1 v) s = exec (.setvol v v) s := (exec_expand (.setvol1 v) s).symm
  refine ⟨(encode_expand (.setvol1 v)).symm, effect, fun cfg h => ?frames⟩
  case frames =>
    rw [effect, exec_setvol]
    exact writeChannels_left_then_right h _ _ _ _

end Sys2Proof.Machine
end

section
/-! The transfer (43_transfer_and_init.md R105, R106): the control byte is a concatenation, and the six events of a frame
leave the line high and the transaction closed. -/

namespace Sys2Proof.Machine

/-- The address as a byte lies under a zero nibble, so it has no bit in common with `ctrlByte`. -/
theorem address_setWidth_eq_append (address : Nibble) : address.setWidth 8 = 0#4 ++ address :=
  BitVec.setWidth_eq_append (by decide)

theorem controlByte_eq_append (ctrl address : Nibble) : controlByte ctrl address = ctrl ++ address := by
  rw [controlByte, ctrlByte, address_setWidth_eq_append, BitVec.or_append, BitVec.or_zero, BitVec.zero_or]

theorem ctrlByte_and_address (ctrl address : Nibble) : ctrlByte ctrl &&& address.setWidth 8 = 0#8 := by
  rw [ctrlByte, address_setWidth_eq_append, BitVec.and_append, BitVec.and_zero, BitVec.zero_and]
  rfl

/-- R106: nothing carries, so the addition is the OR. -/
theorem controlByte_eq_add (ctrl address : Nibble) :
    controlByte ctrl address = ctrlByte ctrl + address.setWidth 8 :=
  (BitVec.add_eq_or_of_and_eq_zero _ _ (ctrlByte_and_address ctrl address)).symm

/-- Settles O13: the byte is the concatenation, and its operands have no bit in common. -/
theorem controlByteIsNibbleAndAddress : Obligations.ControlByteIsNibbleAndAddress := by
  intro ctrl address
  exact ⟨rfl, controlByte_high ctrl address, controlByte_low ctrl address, controlByte_eq_add ctrl address,
    controlByte_eq_append ctrl address, controlByte_eq_append ctrl 0x0#4, controlByte_low ctrl 0xF#4⟩

/-- What draining does to the block, with the chip left open. -/
theorem drain_block (s : State) :
    s.drain = { s with
      pending := []
      trace := s.trace ++ s.pending
      lineLevel := s.pending.foldl LineLevel.after s.lineLevel
      txnOpen := s.pending.foldl txnOpenAfter s.txnOpen
      chip := s.drain.chip
      freeIndex := s.drain.freeIndex } := by
  rw [drain_spec]

/-- R105: one frame delivered ends with the line high and no transaction open, whatever they were before. -/
theorem drain_of_pending_frame {s : State} {cfg : BusConfig} {ctrl : Nibble} {data : Byte}
    (h : s.pending = s.frame cfg ctrl data) :
    s.drain = { s with
      pending := []
      trace := s.trace ++ s.frame cfg ctrl data
      lineLevel := .high
      txnOpen := false
      chip := s.drain.chip
      freeIndex := s.drain.freeIndex } := by
  refine (drain_block s).trans ?_
  rw [h, State.frame, frameEvents_lineLevel, frameEvents_txnOpen]

/-- Settles O14: the events by the definition of the frame, their effect by draining one frame. -/
theorem transferIsSixEventsDataByteFirst : Obligations.TransferIsSixEventsDataByteFirst := by
  intro s cfg ctrl data
  exact ⟨rfl, drain_of_pending_frame⟩

end Sys2Proof.Machine
end

section
/-! The command word (30_encoding.md R50 to R66): which bits the decoder looks at; then the two round trips, the ignored
bits, the opcode table and the operands. -/

namespace Sys2Proof.Machine

/-! ## The decoder -/

/-- R60: a reserved opcode 0x8 to 0xF is kept in the command. -/
theorem decode_of_ge_8 {w : CmdWord} (h : 8 ≤ (opField w).toNat) : decode w = .reserved8F (opField w) := by
  unfold decode
  split
  case h_9 => rfl
  all_goals omega

theorem opcode_cases (op : Nibble) :
    8 ≤ op.toNat ∨ op = 0x0#4 ∨ op = 0x1#4 ∨ op = 0x2#4 ∨ op = 0x3#4 ∨ op = 0x4#4 ∨ op = 0x5#4 ∨ op = 0x6#4 ∨
      op = 0x7#4 := by
  revert op; decide

/-! ## The masks of R54 -/

theorem nibble_and_F (op : Nibble) : op &&& 0xF#4 = op := BitVec.and_allOnes

theorem and_one_eq_boolOperand (a : Operand) : a &&& 1#16 = boolOperand (a.getLsbD 0) := by
  apply BitVec.eq_of_getLsbD_eq
  intro i _
  by_cases hi : i = 0 <;> simp [boolOperand, hi]

theorem enabledBit_eq (w : CmdWord) : enabledBit w = (fieldA w).getLsbD 0 := by
  rw [← enabledBit_packWord (opField w) (fieldA w) (fieldB w), packWord_fields]

section Masks

variable (w : CmdWord)

/-- The mask of a command without operands keeps the opcode alone. -/
theorem and_opcodeMask : w &&& 0xF00000000#36 = packWord (opField w) 0#16 0#16 := by
  conv_lhs => rw [← packWord_fields w, show 0xF00000000#36 = packWord 0xF#4 0#16 0#16 from rfl, packWord_and]
  simp [nibble_and_F]

/-- The mask of a state-bit command keeps opcode and bit 16. -/
theorem and_stateBitMask : w &&& 0xF00010000#36 = packWord (opField w) (boolOperand (enabledBit w)) 0#16 := by
  conv_lhs => rw [← packWord_fields w, show 0xF00010000#36 = packWord 0xF#4 1#16 0#16 from rfl, packWord_and]
  rw [and_one_eq_boolOperand, enabledBit_eq, nibble_and_F, BitVec.and_zero]

/-- The mask of a command with two operands keeps everything. -/
theorem and_fullMask : w &&& 0xFFFFFFFFF#36 = packWord (opField w) (fieldA w) (fieldB w) := by
  rw [packWord_fields]
  exact BitVec.and_allOnes

theorem usedBits_of_ge_8 {w : CmdWord} (h : 8 ≤ (opField w).toNat) : usedBits w = 0xF00000000#36 := by
  unfold usedBits
  split
  case h_6 => rfl
  all_goals omega

/-- Every mask keeps the opcode, of any word. -/
theorem opField_and_usedBits (v : CmdWord) : opField (v &&& usedBits w) = opField v := by
  unfold usedBits
  split
  case h_1 | h_2 => rw [and_fullMask, opField_packWord]
  case h_3 | h_4 | h_5 => rw [and_stateBitMask, opField_packWord]
  case h_6 => rw [and_opcodeMask, opField_packWord]

end Masks

/-! ## The round trips -/

/-- Settles O2: the opcode put in the word selects the decoder's row, which reads back the fields put beside it. -/
theorem decodingAnEncodedCommandGivesItsExpansion : Obligations.DecodingAnEncodedCommandGivesItsExpansion := by
  intro i hwf
  cases i
  case reserved8F op =>
    have hop : 8 ≤ op.toNat := of_decide_eq_true hwf
    simp [encode, Instr.expand, decode_of_ge_8, hop]
  all_goals simp [encode, Instr.expand, decode]

/-- Settles O3: opcode by opcode, the mask keeps the fields that the decoder reads and the encoder writes. -/
theorem encodingADecodedWordClearsItsIgnoredBits : Obligations.EncodingADecodedWordClearsItsIgnoredBits := by
  intro w
  rcases opcode_cases (opField w) with h | h | h | h | h | h | h | h | h
  case inl =>
    rw [decode_of_ge_8 h, usedBits_of_ge_8 h, and_opcodeMask]
    exact ⟨rfl, decide_eq_true h, rfl⟩
  all_goals
    simp [decode, h, usedBits, and_opcodeMask, and_stateBitMask, and_fullMask, encode, Instr.wellFormed, Instr.expand]

theorem decode_and_usedBits (w : CmdWord) : decode (w &&& usedBits w) = decode w := by
  obtain ⟨henc, hwf, hexp⟩ := encodingADecodedWordClearsItsIgnoredBits w
  rw [← henc, decodingAnEncodedCommandGivesItsExpansion _ hwf, hexp]

/-- Settles O4: the used bits hold the opcode, so both words have one mask, and a word decodes as its masked form. -/
theorem ignoredBitsDoNotMatter : Obligations.IgnoredBitsDoNotMatter := by
  intro w v hwv
  have opcode : opField w = opField v := by
    rw [← opField_and_usedBits w w, hwv, opField_and_usedBits]
  have mask : usedBits w = usedBits v := by simp only [usedBits, opcode]
  calc decode w = decode (w &&& usedBits w) := (decode_and_usedBits w).symm
    _ = decode (v &&& usedBits v) := by rw [hwv, mask]
    _ = decode v := decode_and_usedBits v

/-! ## The opcode table -/

/-- The rows look at the opcode field only. -/
theorem opcodeRows_opcode_only : ∀ row ∈ opcodeRows,
    row.mask = packWord (opField row.mask) 0#16 0#16 ∧ row.pattern = packWord (opField row.pattern) 0#16 0#16 := by
  decide

theorem packWord_zero_inj {op op' : Nibble} : packWord op 0#16 0#16 = packWord op' 0#16 0#16 ↔ op = op' :=
  ⟨fun h => by simpa using congrArg opField h, fun h => h ▸ rfl⟩

theorem matches_row_iff {row : OpcodeRow} (hrow : row ∈ opcodeRows) (w : CmdWord) :
    w &&& row.mask = row.pattern ↔ opField w &&& opField row.mask = opField row.pattern := by
  obtain ⟨hmask, hpattern⟩ := opcodeRows_opcode_only row hrow
  conv_lhs => rw [hmask, hpattern, ← packWord_fields w, packWord_and, BitVec.and_zero, BitVec.and_zero]
  exact packWord_zero_inj

/-- The mnemonic of a word is that of its opcode alone. -/
theorem mnemonic_decode (w : CmdWord) : (decode w).mnemonic = (decode (packWord (opField w) 0#16 0#16)).mnemonic := by
  rcases opcode_cases (opField w) with h | h | h | h | h | h | h | h | h
  case inl => simp [decode_of_ge_8, h, Instr.mnemonic]
  all_goals simp [decode, h, Instr.mnemonic]

/-- The table against the decoder, for the sixteen opcodes. -/
theorem opcodeRows_agree : ∀ op : Nibble,
    (∀ row ∈ opcodeRows, (op &&& opField row.mask = opField row.pattern ↔
      (decode (packWord op 0#16 0#16)).mnemonic = row.mnemonic)) ∧
    ∃ row ∈ opcodeRows, op &&& opField row.mask = opField row.pattern := by
  decide

/-- Settles O5: row and decoder look at the opcode alone, and the sixteen opcodes agree. -/
theorem decodingAgreesWithTheOpcodeTable : Obligations.DecodingAgreesWithTheOpcodeTable := by
  intro w
  obtain ⟨agree, row, hrow, hmatch⟩ := opcodeRows_agree (opField w)
  refine ⟨fun row hrow => ?_, row, hrow, (matches_row_iff hrow w).mpr hmatch⟩
  rw [matches_row_iff hrow, mnemonic_decode]
  exact agree row hrow

/-! ## Operands -/

/-- R52: the value of an operand, by its sign bit. -/
theorem operand_toInt (x : Operand) :
    x.toInt = ((x.extractLsb' 0 15).toNat : Int) - 32768 * (if x.getLsbD 15 then 1 else 0) := by
  have low : (x.extractLsb' 0 15).toNat = x.toNat % 32768 := by simp [BitVec.extractLsb'_toNat]
  have sign : x.getLsbD 15 = decide (32768 ≤ x.toNat) :=
    (BitVec.msb_eq_getLsbD_last x).symm.trans (BitVec.msb_eq_decide x)
  have bound : x.toNat < 65536 := x.isLt
  rw [BitVec.toInt_eq_toNat_cond, low, sign]
  by_cases h : 32768 ≤ x.toNat <;> simp [h] <;> omega

/-- Settles O6: the operands are the fields, whose low fifteen bits and sign bit are bits of the word. -/
theorem operandIsTwosComplement : Obligations.OperandIsTwosComplement := by
  intro w _
  have fieldA_low : (fieldA w).extractLsb' 0 15 = w.extractLsb' 16 15 := by
    apply BitVec.eq_of_getLsbD_eq
    intro i hi
    have hi16 : i < 16 := by omega
    simp [fieldA, hi16]
  have fieldB_low : (fieldB w).extractLsb' 0 15 = w.extractLsb' 0 15 := BitVec.extractLsb'_extractLsb'_of_le (by decide)
  have fieldA_sign : (fieldA w).getLsbD 15 = w.getLsbD 31 := by simp [fieldA]
  have fieldB_sign : (fieldB w).getLsbD 15 = w.getLsbD 15 := by simp [fieldB]
  refine ⟨fieldA w, fieldB w, fun h => ?setvol, fun h => ?setgain, ?left, ?right⟩
  case setvol => simp [decode, opField, h]
  case setgain => simp [decode, opField, h]
  case left => rw [operand_toInt, fieldA_low, fieldA_sign]
  case right => rw [operand_toInt, fieldB_low, fieldB_sign]

/-- Settles O1: the words of the test vectors, evaluated. -/
theorem specWordsDecodeToTheirCommands : Obligations.SpecWordsDecodeToTheirCommands := by
  unfold Obligations.SpecWordsDecodeToTheirCommands
  decide

end Sys2Proof.Machine
end

section
/-! The value encoders outside the documented ranges (40_value_encoders.md R72, R76, R79). -/

namespace Sys2Proof.Machine

/-- R72: from -223 up the byte of `EncAtt` is the residue. -/
theorem encAtt_toNat_of_ge {v : Operand} (h : -223 ≤ v.toInt) : ((encAtt v).toNat : Int) = (16 - v.toInt) % 256 := by
  rw [encAtt_of_ge h, lowByte_toNat]

/-- R76: up to 63 the byte of `EncGain` is the residue. -/
theorem encGain_toNat_of_le {g : Operand} (h : g.toInt ≤ 63) : ((encGain g).toNat : Int) = g.toInt % 256 := by
  rw [encGain_of_le h, lowByte_toNat]

/-- Settles O9: above -223 there is no clamp, so the byte is the residue of `16 - v`. -/
theorem attenuationByteOfPositiveOperands : Obligations.AttenuationByteOfPositiveOperands := by
  refine ⟨fun v hv => encAtt_toNat_of_ge (by omega), fun v hlo hhi => ?_, by decide, by decide, by decide⟩
  rw [encAtt_toNat_of_ge (by omega), Int.emod_eq_of_lt (by omega) (by omega)]

/-- Settles O11: below 63 there is no clamp, so the byte is the residue of `g`. -/
theorem gainByteOfNegativeOperands : Obligations.GainByteOfNegativeOperands :=
  ⟨fun _ hg => encGain_toNat_of_le (by omega), by decide, by decide, by decide, by decide, by decide⟩

theorem byte_eq_of_toNat {x y : Byte} (h : (x.toNat : Int) = y.toNat) : x = y :=
  BitVec.eq_of_toNat_eq (by exact_mod_cast h)

theorem encAtt_period {v w : Operand} (hvw : w.toInt = v.toInt - 256) (hw : 1 ≤ w.toInt) : encAtt v = encAtt w := by
  apply byte_eq_of_toNat
  rw [encAtt_toNat_of_ge (by omega), encAtt_toNat_of_ge (by omega)]
  omega

theorem encGain_period {g f : Operand} (hgf : f.toInt = g.toInt - 256) (hg : g.toInt ≤ -1) : encGain g = encGain f := by
  apply byte_eq_of_toNat
  rw [encGain_toNat_of_le (by omega), encGain_toNat_of_le (by omega)]
  omega

/-- Above the clamp the zero byte is a residue 0; at and below it the byte is 0xEF. -/
theorem encAtt_eq_muteByte_iff (v : Operand) : encAtt v = muteByte ↔ -223 ≤ v.toInt ∧ (16 - v.toInt) % 256 = 0 := by
  by_cases hv : -223 ≤ v.toInt
  · rw [← encAtt_toNat_of_ge hv]
    exact ⟨fun h => ⟨hv, by rw [h]; rfl⟩, fun h => byte_eq_of_toNat h.2⟩
  · rw [encAtt_of_le (by omega)]
    exact ⟨fun h => absurd h (by decide), fun h => absurd h.1 hv⟩

/-- Settles O12: the periods by the residues; the zero byte by the residue and the range of an operand. -/
theorem encoderPeriodsAndTheZeroByte : Obligations.EncoderPeriodsAndTheZeroByte := by
  refine ⟨fun _ _ => encAtt_period, fun _ _ => encGain_period, fun v => ?_, fun v hlo hhi => ?_⟩
  · have bound : v.toInt < 32768 := BitVec.toInt_lt (x := v)
    rw [encAtt_eq_muteByte_iff]
    constructor
    · rintro ⟨hlo, hzero⟩
      exact ⟨((v.toInt - 16) / 256).toNat, by omega, by omega⟩
    · rintro ⟨k, -, hv⟩
      omega
  · rw [Ne, encAtt_eq_muteByte_iff]
    omega

end Sys2Proof.Machine
end

section
/-! The assembler's table (30_encoding.md R63 to R65): one equation per mnemonic, then the signed and Boolean
operands. -/

namespace Sys2Proof.Machine

/-! ## Mnemonics -/

section Mnemonics

variable (ops : List AsmOperand) (l r e : AsmOperand)

theorem assemble_init : assembleCommand ['I', 'N', 'I', 'T'] ops = if ops = [] then some .init else none := by
  cases ops <;> rfl

theorem assemble_mute : assembleCommand ['M', 'U', 'T', 'E'] ops = if ops = [] then some .mute else none := by
  cases ops <;> rfl

theorem assemble_setvol : assembleCommand ['S', 'E', 'T', 'V', 'O', 'L'] [l, r] =
    l.signed.bind fun x => r.signed.map fun y => .setvol x y := rfl

theorem assemble_setgain : assembleCommand ['S', 'E', 'T', 'G', 'A', 'I', 'N'] [l, r] =
    l.signed.bind fun x => r.signed.map fun y => .setgain x y := rfl

theorem assemble_setvol1 : assembleCommand ['S', 'E', 'T', 'V', 'O', 'L', '1'] [e] = e.signed.map .setvol1 := rfl

theorem assemble_setgain1 : assembleCommand ['S', 'E', 'T', 'G', 'A', 'I', 'N', '1'] [e] = e.signed.map .setgain1 := rfl

theorem assemble_setzc : assembleCommand ['S', 'E', 'T', 'Z', 'C'] [e] = e.bool.map .setzc := rfl

theorem assemble_setattlink :
    assembleCommand ['S', 'E', 'T', 'A', 'T', 'T', 'L', 'I', 'N', 'K'] [e] = e.bool.map .setattlink := rfl

theorem assemble_setgainlink :
    assembleCommand ['S', 'E', 'T', 'G', 'A', 'I', 'N', 'L', 'I', 'N', 'K'] [e] = e.bool.map .setgainlink := rfl

/-- Five mnemonics take one operand. -/
theorem assemble_one_operand (h : ops.length ≠ 1) :
    assembleCommand ['S', 'E', 'T', 'Z', 'C'] ops = none ∧
    assembleCommand ['S', 'E', 'T', 'A', 'T', 'T', 'L', 'I', 'N', 'K'] ops = none ∧
    assembleCommand ['S', 'E', 'T', 'G', 'A', 'I', 'N', 'L', 'I', 'N', 'K'] ops = none ∧
    assembleCommand ['S', 'E', 'T', 'V', 'O', 'L', '1'] ops = none ∧
    assembleCommand ['S', 'E', 'T', 'G', 'A', 'I', 'N', '1'] ops = none := by
  match ops, h with
  | [], _ => exact ⟨rfl, rfl, rfl, rfl, rfl⟩
  | _ :: _ :: _, _ => exact ⟨rfl, rfl, rfl, rfl, rfl⟩

/-- Two mnemonics take two operands. -/
theorem assemble_two_operands (h : ops.length ≠ 2) :
    assembleCommand ['S', 'E', 'T', 'V', 'O', 'L'] ops = none ∧
    assembleCommand ['S', 'E', 'T', 'G', 'A', 'I', 'N'] ops = none := by
  match ops, h with
  | [], _ => exact ⟨rfl, rfl⟩
  | [_], _ => exact ⟨rfl, rfl⟩
  | _ :: _ :: _ :: _, _ => exact ⟨rfl, rfl⟩

end Mnemonics

/-! ## Operands -/

theorem signed_of_in_range {a : AsmOperand} {x : Int} (ha : a.value = some x) (hlo : -32768 ≤ x) (hhi : x ≤ 32767) :
    a.signed = some (BitVec.ofInt 16 x) := by
  simp [AsmOperand.signed, ha, signedOperand, hlo, hhi]

theorem signed_of_out_of_range {a : AsmOperand} {x : Int} (ha : a.value = some x) (hx : x < -32768 ∨ 32767 < x) :
    a.signed = none := by
  have outside : ¬ (-32768 ≤ x ∧ x ≤ 32767) := by omega
  rw [AsmOperand.signed, ha]
  exact if_neg outside

theorem operand_ofInt_toInt {x : Int} (hlo : -32768 ≤ x) (hhi : x ≤ 32767) : (BitVec.ofInt 16 x).toInt = x :=
  BitVec.toInt_ofInt_eq_self (by decide) (by simpa using hlo) (by omega)

/-- R63: a Boolean operand is the text `0` or `1`. -/
theorem bool_map_eq_some (a : AsmOperand) (command : Bool → Instr) (i : Instr) :
    a.bool.map command = some i ↔ (a.text = ['0'] ∧ i = command false) ∨ (a.text = ['1'] ∧ i = command true) := by
  unfold AsmOperand.bool
  split_ifs with h0 h1
  · simp [h0, eq_comm]
  · simp [h1, eq_comm]
  · simp [h0, h1]

theorem boolOperand_eq (e : Bool) : boolOperand e = if e then 0x0001#16 else 0x0000#16 := by
  cases e <;> rfl

/-- Settles O7: the equations of the mnemonics, with the operands' range and form. -/
theorem assemblerBuildsTheWordsOfTheTable : Obligations.AssemblerBuildsTheWordsOfTheTable := by
  refine ⟨fun a b x y ha hb hxlo hxhi hylo hyhi => ?accepted, fun a b x ha hx => ?rejected,
    fun a i => by rw [assemble_setzc, bool_map_eq_some], fun a i => by rw [assemble_setattlink, bool_map_eq_some],
    fun a i => by rw [assemble_setgainlink, bool_map_eq_some], rfl, rfl,
    fun ops => ⟨fun h => ?none, assemble_one_operand ops, assemble_two_operands ops⟩, rfl, rfl, fun e => ?bool⟩
  case accepted =>
    refine ⟨BitVec.ofInt 16 x, BitVec.ofInt 16 y, operand_ofInt_toInt hxlo hxhi, operand_ofInt_toInt hylo hyhi, ?_⟩
    rw [assemble_setvol, assemble_setgain, assemble_setvol1, assemble_setgain1, signed_of_in_range ha hxlo hxhi,
      signed_of_in_range hb hylo hyhi]
    exact ⟨rfl, rfl, rfl, rfl⟩
  case rejected =>
    simp [assemble_setvol, assemble_setgain, assemble_setvol1, assemble_setgain1, signed_of_out_of_range ha hx]
  case none => simp [assemble_init, assemble_mute, h]
  case bool =>
    rw [← boolOperand_eq]
    exact ⟨rfl, rfl, rfl⟩

end Sys2Proof.Machine
end

section
/-! The remaining rules about single commands: the formulas of the mirror (41_state_setters.md R89), the link bits of
the level commands (42_level_setters.md R91 to R103), INIT (43_transfer_and_init.md R110, R111), reserved opcodes
(30_encoding.md R60) and commands before INIT (60_exceptions.md R124). -/

namespace Sys2Proof.Machine

/-! ## INIT, reserved opcodes, refusals -/

theorem exec_init (s : State) :
    exec .init s = .next { s with
      busConfig := some s.params.bus
      pending := s.pending ++ [.line s.selectLine .high] } := rfl

/-- Settles O24: the opcode of INIT and its effect by definition. -/
theorem firstInitSetsTheBusConfiguration : Obligations.FirstInitSetsTheBusConfiguration :=
  ⟨Laws.OpcodeOf.init, fun s _ => exec_init s⟩

/-- Settles O25: INIT re-writes the `busConfig` that is there. -/
theorem secondInitOnlyDrivesTheLineAgain : Obligations.SecondInitOnlyDrivesTheLineAgain := by
  intro s h
  rw [exec_init, ← h]

/-- Settles O26: both reserved commands retire. -/
theorem reservedCommandsHaveNoEffect : Obligations.ReservedCommandsHaveNoEffect := by
  intro op s cfg h
  have retired : s.retire = .next s := retire_eq_next.mpr ⟨cfg, h, rfl⟩
  exact ⟨retired, retired⟩

/-- R124: before INIT every other command is refused. -/
theorem exec_beforeInit {i : Instr} {s : State} (hi : i ≠ .init) (h : s.busConfig = none) :
    exec i s = .refused .beforeInit := by
  cases i
  case init => exact absurd rfl hi
  all_goals exact afterInit_none h _

/-- Settles O27: a command either is INIT or comes after it, and has a next state, or is refused. -/
theorem onlyCommandsBeforeInitAreRefused : Obligations.OnlyCommandsBeforeInitAreRefused := by
  refine fun i s => ⟨fun r => ⟨fun hr => ?_, ?_⟩, exec_total⟩
  · by_cases h : i = .init ∨ s.busConfig ≠ none
    · obtain ⟨t, ht⟩ := exec_total h
      cases ht.symm.trans hr
    · obtain ⟨hi, hc⟩ := not_or.mp h
      rw [exec_beforeInit hi (not_not.mp hc)] at hr
      cases hr
      exact ⟨rfl, hi, not_not.mp hc⟩
  · rintro ⟨rfl, hi, hc⟩
    exact exec_beforeInit hi hc

/-! ## State-bit commands -/

theorem writeStateByte_next {s : State} {cfg : BusConfig} (h : s.busConfig = some cfg) (b : Byte) :
    ∃ t, s.writeStateByte b = .next t ∧ t.stateRegister = b :=
  ⟨_, writeStateByte_eq_next.mpr ⟨cfg, h, rfl⟩, rfl⟩

theorem writeStateByte_length {s : State} {cfg : BusConfig} (h : s.busConfig = some cfg) (b : Byte) :
    ∃ t, s.writeStateByte b = .next t ∧ t.pending.length = s.pending.length + 6 :=
  ⟨_, writeStateByte_eq_next.mpr ⟨cfg, h, rfl⟩, by simp⟩

/-- Settles O18: the formulas are the writes of one bit. -/
theorem stateBitCommandsFollowTheNextStateFormulas : Obligations.StateBitCommandsFollowTheNextStateFormulas :=
  fun e s _ h =>
    ⟨writeStateByte_next h (withBit 5 (!e) s.stateRegister), writeStateByte_next h (withBit 7 e s.stateRegister),
      writeStateByte_next h (withBit 6 e s.stateRegister)⟩

/-! ## Level commands -/

theorem writeChannels_length {s : State} {cfg : BusConfig} (h : s.busConfig = some cfg) (linked : Bool) (cl cr : Nibble)
    (dl dr : Byte) :
    ∃ t, s.writeChannels linked cl cr dl dr = .next t ∧
      t.pending.length = s.pending.length + if linked then 6 else 12 := by
  refine ⟨_, writeChannels_left_then_right h cl cr dl dr, ?_⟩
  cases linked <;> simp

/-- Settles O29: six events a frame, one frame or two by the link bit. -/
theorem commandsQueueSixOrTwelveEvents : Obligations.CommandsQueueSixOrTwelveEvents := by
  intro i s cfg h
  have retired : s.retire = .next s := retire_eq_next.mpr ⟨cfg, h, rfl⟩
  cases i
  case init => exact ⟨_, exec_init s, by simp⟩
  case setzc | setattlink | setgainlink => exact writeStateByte_length h _
  case reserved7 | reserved8F => exact ⟨s, retired, rfl⟩
  all_goals exact writeChannels_length h _ _ _ _ _

/-- A level command whose link bit is given does not read the mirror. -/
theorem writeChannels_other_mirror {linked : Bool} {cl cr : Nibble} {dl dr : Byte} {s t : State}
    (h : s.writeChannels linked cl cr dl dr = .next t) (b : Byte) :
    ({ s with stateRegister := b } : State).writeChannels linked cl cr dl dr = .next { t with stateRegister := b } := by
  obtain ⟨cfg, hc, rfl⟩ := writeChannels_eq_next.mp h
  exact writeChannels_eq_next.mpr ⟨cfg, hc, rfl⟩

/-- Settles O30: the mirror enters a level command through its link bit alone. -/
theorem levelCommandsReadOneLinkBit : Obligations.LevelCommandsReadOneLinkBit := by
  intro l r b s t
  refine ⟨fun hb => ⟨fun h => ?setvol, fun h => ?mute⟩, fun hb h => ?setgain⟩
  all_goals
    simp only [exec_setvol, exec_mute, exec_setgain, hb] at h ⊢
    exact writeChannels_other_mirror h b

/-- The right byte of a linked level command is not sent. -/
theorem writeChannels_linked_right (s : State) (cl cr : Nibble) (dl dr dr' : Byte) :
    s.writeChannels true cl cr dl dr = s.writeChannels true cl cr dl dr' := rfl

/-- Settles O31: the unused right byte, and the byte 0x00 that `EncAtt` gives for 16. -/
theorem unusedRightOperandAndMuteAsSetvolSixteen : Obligations.UnusedRightOperandAndMuteAsSetvolSixteen := by
  intro l r r' s
  have zero : encAtt 16#16 = 0x00#8 := by decide
  refine ⟨fun h => ?_, fun h => ?_, ?_⟩
  · rw [exec_setvol, exec_setvol, h, writeChannels_linked_right]
  · rw [exec_setgain, exec_setgain, h, writeChannels_linked_right]
  · rw [exec_mute, exec_setvol, zero]

/-- Settles O23: SETGAIN1 expands to SETGAIN with its operand twice, in word and in effect. -/
theorem setgainOneSetsBothChannelsToOneValue : Obligations.SetgainOneSetsBothChannelsToOneValue := by
  intro g s
  have effect : exec (.setgain1 g) s = exec (.setgain g g) s := (exec_expand (.setgain1 g) s).symm
  refine ⟨(encode_expand (.setgain1 g)).symm, effect, fun cfg h => ?frames⟩
  case frames =>
    rw [effect, exec_setgain]
    exact writeChannels_left_then_right h _ _ _ _

end Sys2Proof.Machine
end

section
/-! What one clock edge can do to the block, said once with the chip left open (10_state.md R22, R23, R27); then what
10_state.md R12, R18 to R20 and 20_memory.md R42 say of the time between resets. -/

namespace Sys2Proof.Machine

/-! ## A step with the chip left open -/

/-- The state after an edge at which only the port sample and the chip moved. -/
def State.passed (s : State) (chip : Chip) (n : Nat) : State :=
  { s with inputs := s.inputs.tail, chip := chip, freeIndex := n }

/-- The state after an edge that delivered `e` and left `rest` pending. -/
def State.passedDelivering (s : State) (e : Event) (rest : List Event) (chip : Chip) (n : Nat) : State :=
  { s.passed chip n with
    pending := rest
    trace := s.trace ++ [e]
    lineLevel := s.lineLevel.after e
    txnOpen := txnOpenAfter s.txnOpen e }

theorem upsetChip_sampled (p : PortSample) (s : State) : ∃ chip n, s.sampled.upsetChip p = s.passed chip n := by
  unfold State.upsetChip
  split <;> exact ⟨_, _, rfl⟩

theorem resetEdge_sampled (p : PortSample) (s : State) :
    ∃ chip n, s.sampled.resetEdge p = (s.passed chip n).blockReset p.strap :=
  resetEdge_block p s.sampled

theorem offer_passed {p : PortSample} (h : p.evReady = true) (s : State) (e : Event) (rest : List Event) (chip : Chip)
    (n : Nat) : ∃ chip' n', (s.passed chip n).offer p e rest = s.passedDelivering e rest chip' n' := by
  simp only [State.offer, h, if_true]
  cases p.busLoss <;> exact ⟨_, _, rfl⟩

/-- R22, R23, R27: a step resets, delivers one event, accepts one command, or lets the block wait. -/
theorem step_cases {s t : State} (h : step s = .next t) :
    ∃ chip n,
      (s.sample.rst = true ∧ t = (s.passed chip n).blockReset s.sample.strap) ∨
      (s.sample.rst = false ∧ ∃ e rest, s.pending = e :: rest ∧ s.sample.evReady = true ∧
        t = s.passedDelivering e rest chip n) ∨
      (s.sample.rst = false ∧ s.atRest ∧ s.sample.cmdValid = true ∧
        exec (decode s.sample.cmdWord) (s.passed chip n) = .next t) ∨
      (s.sample.rst = false ∧ (s.pending = [] ∨ s.sample.evReady = false) ∧
        (s.pending = [] → s.sample.cmdValid = false) ∧ t = s.passed chip n) := by
  obtain ⟨chip, n, hupset⟩ := upsetChip_sampled s.sample s
  obtain ⟨hr, he⟩ | ⟨hr, e, rest, hp, he⟩ | ⟨hr, hp, hv, he⟩ | ⟨hr, hp, hv, he⟩ := edge_cases s.sample s.sampled
  · obtain ⟨chip, n, hreset⟩ := resetEdge_sampled s.sample s
    cases he.symm.trans h
    exact ⟨chip, n, .inl ⟨hr, hreset⟩⟩
  · rw [hupset] at he
    cases he.symm.trans h
    cases hready : s.sample.evReady
    case false =>
      have busy : s.pending ≠ [] := fun hn => by cases hn.symm.trans hp
      exact ⟨chip, n, .inr (.inr (.inr ⟨hr, .inr rfl, fun hn => absurd hn busy, by simp [State.offer, hready]⟩))⟩
    case true =>
      obtain ⟨chip, n, hoffer⟩ := offer_passed hready s e rest chip n
      exact ⟨chip, n, .inr (.inl ⟨hr, e, rest, hp, rfl, hoffer⟩)⟩
  · rw [hupset] at he
    exact ⟨chip, n, .inr (.inr (.inl ⟨hr, hp, hv, he.symm.trans h⟩))⟩
  · cases he.symm.trans h
    exact ⟨chip, n, .inr (.inr (.inr ⟨hr, .inl hp, fun _ => hv, hupset⟩))⟩

/-! ## What an edge delivers -/

theorem delivered_of_ready {p : PortSample} {s : State} {e : Event} {rest : List Event} (hr : p.rst = false)
    (hready : p.evReady = true) (hp : s.pending = e :: rest) : s.delivered p = some e := by
  simp [State.delivered, hr, hready, hp]

theorem delivered_of_waiting {p : PortSample} {s : State} (h : s.pending = [] ∨ p.evReady = false) :
    s.delivered p = none := by
  rcases h with h | h <;> simp [State.delivered, h]

/-! ## What a command does to the mirror and to the queue -/

/-- R88: a command that changes the mirror writes one bit, the one of its name. -/
theorem exec_mirror {i : Instr} {s t : State} (h : exec i s = .next t) :
    t.stateRegister = s.stateRegister ∨
      ∃ n b, ((n = 5 ∧ i = .setzc (!b)) ∨ (n = 6 ∧ i = .setgainlink b) ∨ (n = 7 ∧ i = .setattlink b)) ∧
        t.stateRegister = withBit n b s.stateRegister := by
  obtain ⟨-, rfl⟩ | ⟨cfg, -, ⟨n, b, hn, rfl⟩ | ⟨-, -, fs, -, -, rfl⟩⟩ := exec_cases h
  · exact .inl rfl
  · exact .inr ⟨n, b, hn, rfl⟩
  · exact .inl rfl

/-- R88: a bit of the mirror changes only by its own command. -/
theorem exec_mirror_bit {i : Instr} {s t : State} (h : exec i s = .next t) {b : Nat}
    (hb : t.stateRegister.getLsbD b ≠ s.stateRegister.getLsbD b) :
    (b = 7 ∧ ∃ e, i = .setattlink e) ∨ (b = 6 ∧ ∃ e, i = .setgainlink e) ∨ (b = 5 ∧ ∃ e, i = .setzc e) := by
  obtain hsame | ⟨n, v, hn, hwrite⟩ := exec_mirror h
  · exact absurd (by rw [hsame]) hb
  · have hb : b = n := by
      by_contra hne
      exact hb (by rw [hwrite, withBit_getLsbD n b (by omega), if_neg hne])
    subst hb
    obtain ⟨rfl, rfl⟩ | ⟨rfl, rfl⟩ | ⟨rfl, rfl⟩ := hn
    · exact .inr (.inr ⟨rfl, _, rfl⟩)
    · exact .inr (.inl ⟨rfl, _, rfl⟩)
    · exact .inl ⟨rfl, _, rfl⟩

/-- R61, R107: INIT drives the line once; every other command queues at most two frames, to the five addresses only. -/
theorem exec_queue {i : Instr} {s t : State} (h : exec i s = .next t) :
    (i = .init ∧ t = { s with
      busConfig := some s.params.bus
      pending := s.pending ++ [.line s.selectLine .high] }) ∨
    (i ≠ .init ∧ ∃ cfg, s.busConfig = some cfg ∧ ∃ fs : List (Nibble × Byte), fs.length ≤ 2 ∧
      (∀ f ∈ fs, s.params.ctrl.holds f.1) ∧
      t = { s with
        stateRegister := t.stateRegister
        pending := s.pending ++ fs.flatMap fun f => s.frame cfg f.1 f.2 }) := by
  obtain ⟨hi, ht⟩ | ⟨cfg, hc, ⟨n, b, hn, rfl⟩ | ⟨hi, -, fs, hlen, hlevel, rfl⟩⟩ := exec_cases h
  · exact .inl ⟨hi, ht⟩
  · refine .inr ⟨?_, cfg, hc, [(s.params.ctrl.state, withBit n b s.stateRegister)], by simp, by simp [holds_iff],
      by simp⟩
    obtain ⟨-, rfl⟩ | ⟨-, rfl⟩ | ⟨-, rfl⟩ := hn <;> simp
  · refine .inr ⟨hi, cfg, hc, fs, hlen, fun f hf => ?_, rfl⟩
    have level := hlevel f hf
    simp only [List.mem_cons, List.not_mem_nil, or_false] at level
    rw [holds_iff]
    tauto

theorem exec_pending_grows {i : Instr} {s t : State} (h : exec i s = .next t) : ∃ es, t.pending = s.pending ++ es := by
  obtain ⟨-, rfl⟩ | ⟨-, cfg, -, fs, -, -, ht⟩ := exec_queue h
  · exact ⟨_, rfl⟩
  · exact ⟨_, by rw [ht]⟩

theorem exec_busConfig {i : Instr} {s t : State} (h : exec i s = .next t) (hi : i ≠ .init) :
    t.busConfig = s.busConfig := by
  obtain ⟨hinit, -⟩ | ⟨-, cfg, -, fs, -, -, ht⟩ := exec_queue h
  · exact absurd hinit hi
  · rw [ht]

/-- Settles O28: the frame of `exec`, the queue, and the one bit that a state-bit command writes. -/
theorem commandsChangeOnlyWhatTheyName : Obligations.CommandsChangeOnlyWhatTheyName := fun _ _ _ h =>
  ⟨exec_frame h, exec_pending_grows h, exec_busConfig h, fun _ => exec_mirror_bit h⟩

/-! ## Between resets -/

/-- Settles O39: only an accepted INIT touches `busConfig`, and no edge without reset touches the rest. -/
theorem identityIsImmutableBetweenResets : Obligations.IdentityIsImmutableBetweenResets := by
  intro s t h
  obtain ⟨chip, n, ⟨hr, rfl⟩ | ⟨-, e, rest, -, -, rfl⟩ | ⟨hr, hp, hv, hexec⟩ | ⟨-, -, -, rfl⟩⟩ := step_cases h
  · exact ⟨rfl, rfl, fun hr' => by cases hr.symm.trans hr'⟩
  · exact ⟨rfl, rfl, fun _ => ⟨rfl, .inl rfl⟩⟩
  · have hacc := accepted_of_command (s := s.sampled) hr hp hv
    obtain ⟨hi, rfl⟩ | ⟨-, cfg, -, fs, -, -, ht⟩ := exec_queue hexec
    · exact ⟨rfl, rfl, fun _ => ⟨rfl, .inr ⟨hi ▸ hacc, rfl⟩⟩⟩
    · rw [ht]
      exact ⟨rfl, rfl, fun _ => ⟨rfl, .inl rfl⟩⟩
  · exact ⟨rfl, rfl, fun _ => ⟨rfl, .inl rfl⟩⟩

/-- Settles O40: an edge without reset changes the mirror only by accepting a command. -/
theorem mirrorBitsChangeOnlyByTheirOwnCommand : Obligations.MirrorBitsChangeOnlyByTheirOwnCommand := by
  intro s t h hr b hb
  obtain ⟨chip, n, ⟨hr', -⟩ | ⟨-, e, rest, -, -, rfl⟩ | ⟨-, hp, hv, hexec⟩ | ⟨-, -, -, rfl⟩⟩ := step_cases h
  · cases hr.symm.trans hr'
  · exact absurd rfl hb
  · rw [accepted_of_command (s := s.sampled) hr hp hv]
    simpa using exec_mirror_bit hexec hb
  · exact absurd rfl hb

/-- Settles O47: a delivery moves the head of the queue to the end of the trace, a command only lengthens the queue. -/
theorem eventsAreNeverReorderedRepeatedOrDropped : Obligations.EventsAreNeverReorderedRepeatedOrDropped := by
  intro s t h hr
  obtain ⟨chip, n, ⟨hr', -⟩ | ⟨-, e, rest, hp, hready, rfl⟩ | ⟨-, hp, hv, hexec⟩ | ⟨-, hwait, -, rfl⟩⟩ := step_cases h
  · cases hr.symm.trans hr'
  · refine ⟨⟨[], ?_, fun _ => rfl⟩, .inr ⟨e, delivered_of_ready (s := s.sampled) hr hready hp, rfl⟩⟩
    simp [State.passedDelivering, hp]
  · obtain ⟨es, hes⟩ := exec_pending_grows hexec
    have htrace : t.trace = s.trace := by rw [exec_frame hexec]; rfl
    have hacc := accepted_of_command (s := s.sampled) hr hp hv
    refine ⟨⟨es, ?_, fun hn => by cases hacc.symm.trans hn⟩,
      .inl ⟨delivered_of_waiting (s := s.sampled) (.inl hp), htrace⟩⟩
    rw [hes, htrace, List.append_assoc]
    rfl
  · exact ⟨⟨[], by simp [State.passed], fun _ => rfl⟩, .inl ⟨delivered_of_waiting (s := s.sampled) hwait, rfl⟩⟩

end Sys2Proof.Machine
end

section
/-! The invariant and the trace shape (10_state.md R17, R20, R21; 43_transfer_and_init.md R107, R114): both speak of
what is emitted and pending as a list of whole items, so a delivery keeps them and a command adds items at the end. -/

namespace Sys2Proof.Machine

/-! ## Items -/

theorem itemEvents_length_le (s : State) (i : Option (Nibble × Byte)) : (s.itemEvents i).length ≤ 6 := by
  cases i <;> simp [State.itemEvents]

theorem items_length_le (s : State) (is : List (Option (Nibble × Byte))) :
    (is.flatMap s.itemEvents).length ≤ 6 * is.length := by
  induction is with
  | nil => simp
  | cons i is ih =>
    have := itemEvents_length_le s i
    simp only [List.flatMap_cons, List.length_append, List.length_cons]
    omega

theorem items_eq_nil {s : State} {is : List (Option (Nibble × Byte))} : is.flatMap s.itemEvents = [] ↔ is = [] := by
  cases is with
  | nil => simp
  | cons i is => cases i <;> simp [State.itemEvents, frameEvents]

/-- R105, R110: an item leaves the line high, whatever it was. -/
theorem itemEvents_lineLevel (s : State) (i : Option (Nibble × Byte)) (l : LineLevel) :
    (s.itemEvents i).foldl LineLevel.after l = .high := by
  cases i <;> rfl

theorem items_lineLevel (s : State) {is : List (Option (Nibble × Byte))} (h : is ≠ []) (l : LineLevel) :
    (is.flatMap s.itemEvents).foldl LineLevel.after l = .high := by
  obtain ⟨is, i, rfl⟩ := List.eq_nil_or_concat' is |>.resolve_left h
  simp [itemEvents_lineLevel]

/-- R105: an item leaves no transaction open. -/
theorem items_txnOpen (s : State) (is : List (Option (Nibble × Byte))) :
    (is.flatMap s.itemEvents).foldl txnOpenAfter false = false := by
  induction is with
  | nil => rfl
  | cons i is ih => cases i <;> simpa [State.itemEvents, frameEvents, txnOpenAfter] using ih

theorem items_of_frames (s : State) (fs : List (Nibble × Byte)) :
    (fs.map some).flatMap s.itemEvents = fs.flatMap fun f => s.itemEvents (some f) := by
  simp [List.flatMap_map]

/-! ## The invariant before INIT -/

/-- 10_state.md R27: what reset and power-up leave. -/
structure State.Unstarted (s : State) : Prop where
  mirror : s.stateRegister = 0x20#8
  config : s.busConfig = none
  pending : s.pending = []
  trace : s.trace = []
  line : s.lineLevel = .unconfigured
  txn : s.txnOpen = false

theorem powerUp_unstarted (params : Params) (line : LineId) (strap : Nibble) :
    (State.powerUp params line strap).Unstarted := ⟨rfl, rfl, rfl, rfl, rfl, rfl⟩

theorem blockReset_unstarted (strap : Nibble) (s : State) : (s.blockReset strap).Unstarted :=
  ⟨rfl, rfl, rfl, rfl, rfl, rfl⟩

theorem State.Unstarted.inv {s : State} (h : s.Unstarted) : s.Inv where
  reserved_zero := by rw [h.mirror]; rfl
  pending_le := by simp [h.pending]
  config := .inl h.config
  started := by simp [State.initDone, h.config, h.pending, h.trace]
  lineLevel_eq := by rw [h.trace, h.line]; rfl
  txnOpen_eq := by rw [h.trace, h.txn]; rfl
  items := ⟨[], by simp, by simp [h.pending, h.trace]⟩

theorem State.Unstarted.framedTrace {s : State} (h : s.Unstarted) : s.FramedTrace :=
  .inl ⟨by simp [State.initDone, h.config], by simp [h.pending, h.trace]⟩

/-- Settles O41: from the reset values. -/
theorem resetStateMeetsTheInvariant : Obligations.ResetStateMeetsTheInvariant :=
  ⟨(powerUp_unstarted _ _ _).inv, fun _ _ _ => (powerUp_unstarted _ _ _).inv⟩

/-- Settles O45: from the reset values. -/
theorem resetStateMeetsTheTraceShape : Obligations.ResetStateMeetsTheTraceShape :=
  ⟨(powerUp_unstarted _ _ _).framedTrace, fun _ _ _ => (powerUp_unstarted _ _ _).framedTrace⟩

/-! ## The invariant along a step -/

/-- The invariant says nothing of samples and chip. -/
theorem State.Inv.passed {s : State} (h : s.Inv) (chip : Chip) (n : Nat) : (s.passed chip n).Inv := { h with }

/-- A delivery moves an event from the queue to the trace and follows it in `lineLevel` and `txnOpen`. -/
theorem State.Inv.passedDelivering {s : State} (h : s.Inv) {e : Event} {rest : List Event} (hp : s.pending = e :: rest)
    (chip : Chip) (n : Nat) : (s.passedDelivering e rest chip n).Inv := by
  have emitted : (s.passedDelivering e rest chip n).trace ++ rest = s.trace ++ s.pending := by
    simp [State.passedDelivering, hp]
  exact
    { reserved_zero := h.reserved_zero
      pending_le := by
        have := h.pending_le
        rw [hp, List.length_cons] at this
        exact Nat.le_of_succ_le this
      config := h.config
      started := h.started.trans (by rw [← emitted]; rfl)
      lineLevel_eq := by simp [State.passedDelivering, h.lineLevel_eq]
      txnOpen_eq := by simp [State.passedDelivering, h.txnOpen_eq]
      items := by
        obtain ⟨is, holds, his⟩ := h.items
        exact ⟨is, holds, emitted.trans his⟩ }

/-- At rest, up to two new items may be queued and the mirror rewritten: `busConfig` is set then, so something must have
been emitted or be pending. -/
theorem State.Inv.queued {s t : State} (h : s.Inv) (hp : s.atRest) {is : List (Option (Nibble × Byte))}
    (hlen : is.length ≤ 2) (hstarted : is ≠ [] ∨ s.initDone = true)
    (holds : ∀ f, some f ∈ is → s.params.ctrl.holds f.1) (hmirror : t.stateRegister &&& 0x1F#8 = 0#8)
    (ht : t = { s with
      stateRegister := t.stateRegister
      busConfig := some s.params.bus
      pending := s.pending ++ is.flatMap s.itemEvents }) : t.Inv := by
  have hp : s.pending = [] := hp
  have trace : t.trace = s.trace := by rw [ht]
  have pending : t.pending = is.flatMap s.itemEvents := by rw [ht, hp]; rfl
  have events : t.itemEvents = s.itemEvents := by rw [ht]; rfl
  obtain ⟨js, jholds, hjs⟩ := h.items
  rw [hp, List.append_nil] at hjs
  exact
    { reserved_zero := hmirror
      pending_le := by
        have := items_length_le s is
        rw [pending]
        omega
      config := .inr (by rw [ht])
      started := by
        have nonempty : t.trace ++ t.pending ≠ [] := by
          rcases hstarted with his | hinit
          · have queued : t.pending ≠ [] := pending ▸ mt items_eq_nil.mp his
            simp [queued]
          · have := h.started.mp hinit
            rw [hp, List.append_nil] at this
            simp [trace, this]
        exact ⟨fun _ => nonempty, fun _ => by rw [ht]; rfl⟩
      lineLevel_eq := by rw [trace, ← h.lineLevel_eq, ht]
      txnOpen_eq := by rw [trace, ← h.txnOpen_eq, ht]
      items := ⟨js ++ is, fun f hf => by
          rw [ht]
          exact (List.mem_append.mp hf).elim (jholds f) (holds f),
        by rw [trace, pending, events, hjs, List.flatMap_append]⟩ }

/-- R17: bits 4:0 stay zero. -/
theorem exec_reserved_zero {i : Instr} {s t : State} (h : exec i s = .next t) (hs : s.stateRegister &&& 0x1F#8 = 0#8) :
    t.stateRegister &&& 0x1F#8 = 0#8 := by
  obtain hsame | ⟨n, b, hn, hwrite⟩ := exec_mirror h
  · rw [hsame, hs]
  · rw [hwrite]
    exact withBit_reserved (by omega) b hs

/-- The cached configuration is the parameters, so the frames queued are items. -/
theorem State.Inv.frames_eq_items {s : State} (h : s.Inv) {cfg : BusConfig} (hc : s.busConfig = some cfg)
    (fs : List (Nibble × Byte)) :
    (fs.flatMap fun f => s.frame cfg f.1 f.2) = fs.flatMap fun f => s.itemEvents (some f) := by
  obtain hn | hb := h.config
  · cases hn.symm.trans hc
  · cases hb.symm.trans hc
    rfl

/-- An accepted command keeps the invariant: INIT queues the item without a frame, every other command at most two. -/
theorem exec_inv {i : Instr} {s t : State} (h : s.Inv) (hp : s.atRest) (hexec : exec i s = .next t) : t.Inv := by
  have mirror := exec_reserved_zero hexec h.reserved_zero
  obtain ⟨-, ht⟩ | ⟨-, cfg, hc, fs, hlen, holds, ht⟩ := exec_queue hexec
  · refine h.queued hp (is := [none]) (by simp) (.inl (by simp)) (by simp) mirror ?_
    rw [ht]
    rfl
  · have config : some s.params.bus = s.busConfig := by
      obtain hn | hb := h.config
      · cases hn.symm.trans hc
      · exact hb.symm
    refine h.queued hp (is := fs.map some) (by simpa using hlen) (.inr (by simp [State.initDone, hc]))
      (fun f hf => holds f (by simpa using hf)) mirror ?_
    rw [items_of_frames, ← h.frames_eq_items hc, config]
    exact ht

/-- Settles O42: reset gives the values of R27, a delivery keeps the items, a command adds whole items. -/
theorem everyStepKeepsTheInvariant : Obligations.EveryStepKeepsTheInvariant := by
  intro s t hinv h
  obtain ⟨chip, n, ⟨-, rfl⟩ | ⟨-, e, rest, hp, -, rfl⟩ | ⟨-, hp, -, hexec⟩ | ⟨-, -, -, rfl⟩⟩ := step_cases h
  · exact (blockReset_unstarted _ _).inv
  · exact hinv.passedDelivering hp chip n
  · exact exec_inv (hinv.passed chip n) hp hexec
  · exact hinv.passed chip n

/-! ## The trace shape along a step -/

theorem State.FramedTrace.passedDelivering {s : State} (h : s.FramedTrace) {e : Event} {rest : List Event}
    (hp : s.pending = e :: rest) (chip : Chip) (n : Nat) : (s.passedDelivering e rest chip n).FramedTrace := by
  have emitted : (s.passedDelivering e rest chip n).trace ++ rest = s.trace ++ s.pending := by
    simp [State.passedDelivering, hp]
  obtain ⟨hi, he⟩ | ⟨hi, fs, holds, he⟩ := h
  · exact .inl ⟨hi, emitted.trans he⟩
  · exact .inr ⟨hi, fs, holds, emitted.trans he⟩

/-- R114: within the contract INIT comes first and once, and every other command adds frames behind it. -/
theorem exec_framedTrace {i : Instr} {s t : State} (hinv : s.Inv) (h : s.FramedTrace)
    (hcontract : s.inContract i = true) (hexec : exec i s = .next t) : t.FramedTrace := by
  obtain ⟨rfl, rfl⟩ | ⟨-, cfg, hc, fs, -, holds, ht⟩ := exec_queue hexec
  · have hinit : s.initDone = false := by simpa [State.inContract] using hcontract
    obtain ⟨-, he⟩ | ⟨hi, -⟩ := h
    · refine .inr ⟨rfl, [], by simp, ?_⟩
      simp only [← List.append_assoc, he]
      rfl
    · cases hi.symm.trans hinit
  · have hinit : s.initDone = true := initDone_eq_true.mpr ⟨cfg, hc⟩
    obtain ⟨hi, -⟩ | ⟨-, gs, gholds, he⟩ := h
    · cases hi.symm.trans hinit
    · have config : t.initDone = true := by rw [ht]; exact hinit
      have events : t.itemEvents = s.itemEvents := by rw [ht]; rfl
      refine .inr ⟨config, gs ++ fs, fun f hf => ?_, ?_⟩
      · rw [ht]
        exact (List.mem_append.mp hf).elim (gholds f) (holds f)
      · have grown : t.trace ++ t.pending = (s.trace ++ s.pending) ++ fs.flatMap fun f => s.frame cfg f.1 f.2 := by
          rw [ht, List.append_assoc]
        have line : t.selectLine = s.selectLine := by rw [ht]
        rw [grown, he, hinv.frames_eq_items hc, events, line, List.flatMap_append]
        rfl

/-- Settles O46: like the invariant, with the contract ruling out a second INIT. -/
theorem contractKeepsTheTraceShape : Obligations.ContractKeepsTheTraceShape := by
  intro s t hinv hframed hcontract h
  obtain ⟨chip, n, ⟨-, rfl⟩ | ⟨-, e, rest, hp, -, rfl⟩ | ⟨hr, hp, hv, hexec⟩ | ⟨-, -, -, rfl⟩⟩ := step_cases h
  · exact (blockReset_unstarted _ _).framedTrace
  · exact hframed.passedDelivering hp chip n
  · have hacc := accepted_of_command (s := s.sampled) hr hp hv
    have contract : s.inContract (decode s.sample.cmdWord) = true := by
      simpa [State.nextInContract, hacc] using hcontract
    exact exec_framedTrace (s := s.passed chip n) (hinv.passed chip n) hframed contract hexec
  · exact hframed

/-! ## What the invariant says at rest and of the mirror -/

/-- Settles O44: at rest the trace is whole items, after INIT at least one, and the last leaves the line high. -/
theorem idleBlockHoldsTheLineHigh : Obligations.IdleBlockHoldsTheLineHigh := by
  intro s h hp hinit
  obtain ⟨is, -, his⟩ := h.items
  have nonempty : is ≠ [] := by
    rintro rfl
    exact h.started.mp hinit his
  rw [show s.pending = [] from hp, List.append_nil] at his
  rw [h.lineLevel_eq, h.txnOpen_eq, his]
  exact ⟨items_lineLevel s nonempty _, items_txnOpen s is⟩

theorem execAll_cons {i : Instr} {is : List Instr} {s t : State} (h : exec i s = .next t) :
    State.execAll (i :: is) s = t.drain.execAll is := by
  simp [State.execAll, h]

theorem drain_stateRegister (s : State) : s.drain.stateRegister = s.stateRegister := by rw [drain_spec]

theorem drain_busConfig (s : State) : s.drain.busConfig = s.busConfig := by rw [drain_spec]

/-- R86 in the atomic view: the mirror takes the byte, and `busConfig` stays set. -/
theorem writeStateByte_drained {s : State} {cfg : BusConfig} (h : s.busConfig = some cfg) (b : Byte) :
    ∃ t, s.writeStateByte b = .next t ∧ t.drain.busConfig = some cfg ∧ t.drain.stateRegister = b :=
  ⟨_, writeStateByte_eq_next.mpr ⟨cfg, h, rfl⟩, (drain_busConfig _).trans h, drain_stateRegister _⟩

/-- Three state-bit commands set the three flags to any values. -/
theorem execAll_three_flags {s : State} {cfg : BusConfig} (h : s.busConfig = some cfg) (att gain zc : Bool) :
    ∃ t, s.execAll [.setattlink att, .setgainlink gain, .setzc zc] = .next t ∧
      t.stateRegister = withBit 5 (!zc) (withBit 6 gain (withBit 7 att s.stateRegister)) := by
  obtain ⟨t, ht, tc, tr⟩ := writeStateByte_drained h (withBit 7 att s.stateRegister)
  obtain ⟨u, hu, uc, ur⟩ := writeStateByte_drained tc (withBit 6 gain t.drain.stateRegister)
  obtain ⟨v, hv, -, vr⟩ := writeStateByte_drained uc (withBit 5 (!zc) u.drain.stateRegister)
  refine ⟨v.drain, ?_, by rw [vr, ur, tr]⟩
  rw [execAll_cons ((exec_setattlink att s).trans ht), execAll_cons ((exec_setgainlink gain _).trans hu),
    execAll_cons ((exec_setzc zc _).trans hv)]
  rfl

/-- R26: the bytes with bits 4:0 zero. -/
theorem reserved_zero_bytes : ∀ r : Byte, r &&& 0x1F#8 = 0#8 →
    r ∈ [0x00#8, 0x20#8, 0x40#8, 0x60#8, 0x80#8, 0xA0#8, 0xC0#8, 0xE0#8] := by
  decide

/-- R26: each of the eight bytes is its three flags written over the reset value. -/
theorem byte_of_flags : ∀ r ∈ [0x00#8, 0x20#8, 0x40#8, 0x60#8, 0x80#8, 0xA0#8, 0xC0#8, 0xE0#8],
    withBit 5 (!!r.getLsbD 5) (withBit 6 (r.getLsbD 6) (withBit 7 (r.getLsbD 7) 0x20#8)) = r := by
  decide

/-- Settles O43: the eight bytes by bits 4:0, and each reached by writing its three flags. -/
theorem eightStateBytesAreReachable : Obligations.EightStateBytesAreReachable := by
  refine ⟨fun s h => reserved_zero_bytes _ h.reserved_zero, fun r hr => ?_⟩
  refine ⟨[.setattlink (r.getLsbD 7), .setgainlink (r.getLsbD 6), .setzc (!r.getLsbD 5)], by simp, by simp, ?_⟩
  intro s cfg hc hs
  obtain ⟨t, ht, htr⟩ := execAll_three_flags hc (r.getLsbD 7) (r.getLsbD 6) (!r.getLsbD 5)
  exact ⟨t, ht, by rw [htr, hs, byte_of_flags r hr]⟩

end Sys2Proof.Machine
end

section
/-! What the chip and the returned byte cannot do (10_state.md R24, 20_memory.md R33, R40, R47): the outcome of an edge,
the chip blanked, is that of the same edge on the blanked state. -/

namespace Sys2Proof.Machine

@[simp] theorem portSample_blockOnly_idem (p : PortSample) : p.blockOnly.blockOnly = p.blockOnly := rfl

@[simp] theorem blockOnly_idem (s : State) : s.blockOnly.blockOnly = s.blockOnly := by
  simp [State.blockOnly]

theorem blockOnly_sample (s : State) : s.blockOnly.sample = s.sample.blockOnly := by
  cases hs : s.inputs with
  | nil => simp only [State.sample, State.blockOnly, hs]; rfl
  | cons p ps => simp [State.sample, State.blockOnly, hs]

theorem blockOnly_sampled (s : State) : s.blockOnly.sampled = s.sampled.blockOnly := by
  simp [State.sampled, State.blockOnly]

theorem resetEdge_blockOnly (p : PortSample) (s : State) :
    (s.resetEdge p).blockOnly = s.blockOnly.blockReset p.strap := by
  obtain ⟨chip, n, h⟩ := resetEdge_block p s
  rw [h]
  rfl

theorem offer_blockOnly (p : PortSample) (e : Event) (rest : List Event) (s : State) :
    (s.offer p e rest).blockOnly =
      if p.evReady then ({ s.blockOnly with pending := rest } : State).record e else s.blockOnly := by
  unfold State.offer State.emit
  cases p.evReady <;> cases p.busLoss <;> rfl

theorem afterInit_blockOnly (s : State) {k l : BusConfig → State} (h : ∀ cfg, (k cfg).blockOnly = l cfg) :
    Result.blockOnly (s.afterInit k) = s.blockOnly.afterInit l := by
  cases hc : s.busConfig with
  | none => rw [afterInit_none hc, afterInit_none (show s.blockOnly.busConfig = none from hc)]; rfl
  | some cfg =>
    rw [afterInit_some hc, afterInit_some (show s.blockOnly.busConfig = some cfg from hc)]
    exact congrArg Host.Outcome.next (h cfg)

/-- R33: no command reads the chip. -/
theorem exec_blockOnly (i : Instr) (s : State) : Result.blockOnly (exec i s) = exec i s.blockOnly := by
  cases i
  case init => rfl
  all_goals exact afterInit_blockOnly s fun _ => rfl

theorem edge_blockOnly (p : PortSample) (s : State) :
    Result.blockOnly (s.edge p) = Result.blockOnly (s.blockOnly.edge p.blockOnly) := by
  obtain ⟨hr, he⟩ | ⟨hr, e, rest, hp, he⟩ | ⟨hr, hp, hv, he⟩ | ⟨hr, hp, hv, he⟩ := edge_cases p s
  · rw [he, edge_reset (p := p.blockOnly) hr]
    refine congrArg Host.Outcome.next ?_
    rw [resetEdge_blockOnly, resetEdge_blockOnly, blockOnly_idem]
    rfl
  · rw [he, edge_deliver (p := p.blockOnly) (s := s.blockOnly) hr hp]
    refine congrArg Host.Outcome.next ?_
    rw [offer_blockOnly, offer_blockOnly, upsetChip_blockOnly, upsetChip_blockOnly, blockOnly_idem]
    rfl
  · have hp' : s.blockOnly.atRest := hp
    rw [he, edge_accept (p := p.blockOnly) hr hp' hv, exec_blockOnly, exec_blockOnly, upsetChip_blockOnly,
      upsetChip_blockOnly, blockOnly_idem]
    rfl
  · have hp' : s.blockOnly.atRest := hp
    rw [he, edge_idle (p := p.blockOnly) hr hp' hv]
    refine congrArg Host.Outcome.next ?_
    rw [upsetChip_blockOnly, upsetChip_blockOnly, blockOnly_idem]

theorem step_blockOnly (s : State) : Result.blockOnly (step s) = Result.blockOnly (step s.blockOnly) := by
  unfold step
  rw [edge_blockOnly, blockOnly_sampled, blockOnly_sample]

/-- Settles O50: the blanked outcome is a function of the blanked state. -/
theorem chipCannotInfluenceTheBlock : Obligations.ChipCannotInfluenceTheBlock := by
  intro s t h
  rw [step_blockOnly s, h, ← step_blockOnly t]

end Sys2Proof.Machine
end

section
/-! The chip (20_memory.md R36 to R40, environment model): what it makes of one frame and of several; then the agreement
of mirror and chip (10_state.md R25) and what SETVOL and SETGAIN store. -/

namespace Sys2Proof.Machine

/-! ## One frame -/

section Deliver

variable {m : CtrlMap} {k : Chip} {a : Nibble} (free : Nat → Byte) (n : Nat) (d : Byte)

theorem deliver_other_address (h : a ≠ k.address) (ctrl : Nibble) :
    k.deliver m free n d (controlByte ctrl a) = (k, n) := by
  simp [Chip.deliver, h]

theorem distinct_ne (h : m.distinct) :
    m.attR ≠ m.attL ∧ (m.gainL ≠ m.attL ∧ m.gainL ≠ m.attR) ∧
      (m.gainR ≠ m.attL ∧ m.gainR ≠ m.attR ∧ m.gainR ≠ m.gainL) ∧
      m.state ≠ m.attL ∧ m.state ≠ m.attR ∧ m.state ≠ m.gainL ∧ m.state ≠ m.gainR := by
  simp only [CtrlMap.distinct, CtrlMap.nibbles, List.nodup_cons, List.mem_cons, List.not_mem_nil, or_false, not_or] at h
  obtain ⟨⟨h1, h2, h3, h4⟩, ⟨h5, h6, h7⟩, ⟨h8, h9⟩, h10, -⟩ := h
  exact ⟨Ne.symm h1, ⟨Ne.symm h2, Ne.symm h5⟩, ⟨Ne.symm h3, Ne.symm h6, Ne.symm h8⟩, Ne.symm h4, Ne.symm h7, Ne.symm h9,
    Ne.symm h10⟩

/-- R38: the left attenuation address, by the chip's link flag. -/
theorem deliver_attL (ha : a = k.address) :
    (k.state.getLsbD 7 = false → k.deliver m free n d (controlByte m.attL a) = ({ k with attL := d }, n)) ∧
    (k.state.getLsbD 7 = true →
      k.deliver m free n d (controlByte m.attL a) = ({ k with attL := d, attR := d }, n)) := by
  constructor <;> intro h <;> simp only [Chip.deliver, controlByte_low, controlByte_high, ha, h] <;> simp

/-- R37, R40: the right attenuation address; while the chip is linked the register becomes unknown. -/
theorem deliver_attR (hm : m.distinct) (ha : a = k.address) :
    (k.state.getLsbD 7 = false → k.deliver m free n d (controlByte m.attR a) = ({ k with attR := d }, n)) ∧
    (k.state.getLsbD 7 = true →
      k.deliver m free n d (controlByte m.attR a) = ({ k with attR := free n }, n + 1)) := by
  obtain ⟨hL, -⟩ := distinct_ne hm
  constructor <;> intro h <;> simp only [Chip.deliver, controlByte_low, controlByte_high, ha, h] <;> simp [hL]

/-- R38: the left gain address, by the chip's link flag. -/
theorem deliver_gainL (hm : m.distinct) (ha : a = k.address) :
    (k.state.getLsbD 6 = false → k.deliver m free n d (controlByte m.gainL a) = ({ k with gainL := d }, n)) ∧
    (k.state.getLsbD 6 = true →
      k.deliver m free n d (controlByte m.gainL a) = ({ k with gainL := d, gainR := d }, n)) := by
  obtain ⟨-, ⟨hL, hR⟩, -⟩ := distinct_ne hm
  constructor <;> intro h <;> simp only [Chip.deliver, controlByte_low, controlByte_high, ha, h] <;> simp [hL, hR]

/-- R37, R40: the right gain address; while the chip is linked the register becomes unknown. -/
theorem deliver_gainR (hm : m.distinct) (ha : a = k.address) :
    (k.state.getLsbD 6 = false → k.deliver m free n d (controlByte m.gainR a) = ({ k with gainR := d }, n)) ∧
    (k.state.getLsbD 6 = true →
      k.deliver m free n d (controlByte m.gainR a) = ({ k with gainR := free n }, n + 1)) := by
  obtain ⟨-, -, ⟨hL, hR, hG⟩, -⟩ := distinct_ne hm
  constructor <;> intro h <;> simp only [Chip.deliver, controlByte_low, controlByte_high, ha, h] <;> simp [hL, hR, hG]

theorem deliver_state (hm : m.distinct) (h : a = k.address) :
    k.deliver m free n d (controlByte m.state a) = ({ k with state := d }, n) := by
  obtain ⟨-, -, -, hL, hR, hG, hH⟩ := distinct_ne hm
  simp [Chip.deliver, h, hL, hR, hG, hH]

/-- A frame to a level register leaves the configuration register. -/
theorem deliver_level_state {ctrl : Nibble} (h : ctrl ∈ [m.attL, m.attR, m.gainL, m.gainR]) :
    (k.deliver m free n d (controlByte ctrl a)).1.state = k.state := by
  have named : ctrl = m.attL ∨ ctrl = m.attR ∨ ctrl = m.gainL ∨ ctrl = m.gainR := by simpa using h
  simp only [Chip.deliver, controlByte_high]
  split_ifs
  any_goals rfl
  all_goals exact absurd named (by tauto)

end Deliver

/-- Settles O54: the five own addresses and the foreign one. -/
theorem chipTakesItsOwnFrames : Obligations.ChipTakesItsOwnFrames := by
  intro m free n d a k hm
  refine ⟨fun ha ctrl => deliver_other_address free n d ha ctrl, fun ha => ?_⟩
  obtain ⟨attL, attLinked⟩ := deliver_attL (m := m) free n d ha
  obtain ⟨gainL, gainLinked⟩ := deliver_gainL free n d hm ha
  have attR := (deliver_attR free n d hm ha).1
  have gainR := (deliver_gainR free n d hm ha).1
  exact ⟨deliver_state free n d hm ha, fun h => ⟨attL h, attR h⟩, attLinked, fun h => ⟨gainL h, gainR h⟩, gainLinked⟩

/-! ## Several frames -/

/-- The chip after the frames `fs` (control nibble, data byte) to device address `a`, and the next unused free value. -/
def Chip.deliverAll (m : CtrlMap) (free : Nat → Byte) (a : Nibble) (k : Chip × Nat) (fs : List (Nibble × Byte)) :
    Chip × Nat :=
  fs.foldl (fun k f => k.1.deliver m free k.2 f.2 (controlByte f.1 a)) k

theorem deliverAll_cons (m : CtrlMap) (free : Nat → Byte) (a : Nibble) (k : Chip) (n : Nat) (f : Nibble × Byte)
    (fs : List (Nibble × Byte)) :
    Chip.deliverAll m free a (k, n) (f :: fs) =
      Chip.deliverAll m free a (k.deliver m free n f.2 (controlByte f.1 a)) fs := rfl

theorem deliverAll_nil (m : CtrlMap) (free : Nat → Byte) (a : Nibble) (k : Chip × Nat) :
    Chip.deliverAll m free a k [] = k := rfl

/-- R37: a deselected chip takes whole frames as deliveries, one after another. -/
theorem hearAll_frames (m : CtrlMap) (free : Nat → Byte) (cfg : BusConfig) (line : LineId) (a : Nibble)
    (fs : List (Nibble × Byte)) {k : Chip × Nat} (h : k.1.rx = .idle) :
    Chip.hearAll m free k (fs.flatMap fun f => frameEvents cfg line a f.1 f.2) = Chip.deliverAll m free a k fs := by
  induction fs generalizing k with
  | nil => rfl
  | cons f fs ih =>
    rw [List.flatMap_cons, hearAll_append, hearAll_frame m free k.1 k.2 h]
    exact ih ((deliver_frame m free k.2 f.2 _ k.1).2.trans h)

theorem deliverAll_rx (m : CtrlMap) (free : Nat → Byte) (a : Nibble) (fs : List (Nibble × Byte)) (k : Chip × Nat) :
    (Chip.deliverAll m free a k fs).1.rx = k.1.rx := by
  induction fs generalizing k with
  | nil => rfl
  | cons f fs ih => exact (ih _).trans (deliver_frame m free k.2 f.2 _ k.1).2

theorem deliverAll_level_state {m : CtrlMap} (free : Nat → Byte) (a : Nibble) {fs : List (Nibble × Byte)}
    (h : ∀ f ∈ fs, f.1 ∈ [m.attL, m.attR, m.gainL, m.gainR]) (k : Chip × Nat) :
    (Chip.deliverAll m free a k fs).1.state = k.1.state := by
  induction fs generalizing k with
  | nil => rfl
  | cons f fs ih =>
    have tail := ih (fun g hg => h g (List.mem_cons_of_mem f hg)) (k.1.deliver m free k.2 f.2 (controlByte f.1 a))
    exact tail.trans (deliver_level_state free k.2 f.2 (h f List.mem_cons_self))

/-- `t` is `s` with the frames `fs` queued, and perhaps another mirror byte. -/
def State.QueuedFrames (s t : State) (fs : List (Nibble × Byte)) : Prop :=
  ∃ cfg, t = { s with
    stateRegister := t.stateRegister
    pending := s.pending ++ fs.flatMap fun f => s.frame cfg f.1 f.2 }

/-- Once the frames queued at rest are delivered, an idle chip has taken them. -/
theorem State.QueuedFrames.drain_chip {s t : State} {fs : List (Nibble × Byte)} (h : s.QueuedFrames t fs)
    (hp : s.atRest) (hidle : s.chip.rx = .idle) :
    t.drain.chip = (Chip.deliverAll s.params.ctrl s.free s.deviceAddress (s.chip, s.freeIndex) fs).1 := by
  obtain ⟨cfg, ht⟩ := h
  have hp : s.pending = [] := hp
  rw [← hearAll_frames s.params.ctrl s.free cfg s.selectLine s.deviceAddress fs hidle, drain_spec, ht, hp]
  rfl

/-! ## Mirror and chip -/

/-- R25: frames queued at rest that leave the mirror's byte in the configuration register make mirror and chip agree. -/
theorem State.QueuedFrames.mirrored {s t : State} {fs : List (Nibble × Byte)} (h : s.QueuedFrames t fs) (hp : s.atRest)
    (hidle : s.chip.rx = .idle) (haddr : s.chip.address = s.deviceAddress) (hm : s.params.ctrl.distinct)
    (hstate : (Chip.deliverAll s.params.ctrl s.free s.deviceAddress (s.chip, s.freeIndex) fs).1.state =
      t.stateRegister) : t.Mirrored := by
  have chip := h.drain_chip hp hidle
  obtain ⟨cfg, ht⟩ := h
  exact
    { address := by rw [ht]; exact haddr
      distinct := by rw [ht]; exact hm
      agrees := by rw [chip, hstate]
      idle := by rw [chip, deliverAll_rx, hidle] }

theorem deliverAll_state {s : State} (haddr : s.chip.address = s.deviceAddress) (hm : s.params.ctrl.distinct)
    (b : Byte) :
    (Chip.deliverAll s.params.ctrl s.free s.deviceAddress (s.chip, s.freeIndex) [(s.params.ctrl.state, b)]).1 =
      { s.chip with state := b } := by
  simp [Chip.deliverAll, deliver_state _ _ _ hm haddr.symm]

theorem queuedFrames_state {s : State} {cfg : BusConfig} {b : Byte} :
    s.QueuedFrames { s with
      stateRegister := b
      pending := s.pending ++ s.frame cfg s.params.ctrl.state b } [(s.params.ctrl.state, b)] :=
  ⟨cfg, by simp⟩

/-- The three state-bit commands are `writeStateByte` of some byte. -/
theorem stateBit_eq_writeStateByte {i : Instr} {e : Bool} (h : i = .setzc e ∨ i = .setattlink e ∨ i = .setgainlink e)
    (s : State) : ∃ b, exec i s = s.writeStateByte b := by
  obtain rfl | rfl | rfl := h
  · exact ⟨_, exec_setzc e s⟩
  · exact ⟨_, exec_setattlink e s⟩
  · exact ⟨_, exec_setgainlink e s⟩

/-- Settles O51: the one frame carries the mirror's new byte to the configuration register. -/
theorem stateBitCommandMakesTheChipAgree : Obligations.StateBitCommandMakesTheChipAgree := by
  intro e i s cfg hi hc hp hidle haddr hm
  obtain ⟨b, hexec⟩ := stateBit_eq_writeStateByte hi s
  have queued := queuedFrames_state (s := s) (cfg := cfg) (b := b)
  have stored := deliverAll_state haddr hm b
  refine ⟨_, hexec.trans (writeStateByte_eq_next.mpr ⟨cfg, hc, rfl⟩), queued.mirrored hp hidle haddr hm ?_, ?_,
    drain_stateRegister _⟩
  · rw [stored]
  · rw [queued.drain_chip hp hidle, stored]

/-! ## Agreement along a step -/

theorem endFrame_address (m : CtrlMap) (free : Nat → Byte) (n : Nat) (c : Chip) :
    (c.endFrame m free n).1.address = c.address := by
  unfold Chip.endFrame
  split
  case h_2 d b _ => exact (deliver_frame m free n d b _).1
  all_goals rfl

theorem hear_address (m : CtrlMap) (free : Nat → Byte) (n : Nat) (c : Chip) (e : Event) :
    (c.hear m free n e).1.address = c.address := by
  cases e with
  | line id level =>
    cases level
    · rfl
    · exact endFrame_address m free n c
  | _ => rfl

/-- Draining reads no port sample. -/
theorem drain_sampled (s : State) : s.sampled.drain = s.drain.sampled := by
  rw [drain_spec, drain_spec]
  rfl

theorem State.Mirrored.sampled {s : State} (h : s.Mirrored) : s.sampled.Mirrored where
  address := h.address
  distinct := h.distinct
  agrees := by rw [drain_sampled]; exact h.agrees
  idle := by rw [drain_sampled]; exact h.idle

/-- Delivering the head of the queue brings nothing new: it was to be delivered anyway. -/
theorem State.Mirrored.emit {s : State} (h : s.Mirrored) {e : Event} {rest : List Event} (hp : s.pending = e :: rest) :
    (({ s with pending := rest } : State).emit true e).Mirrored where
  address := (hear_address _ _ _ _ e).trans h.address
  distinct := h.distinct
  agrees := by rw [drain_emit hp, h.agrees, emit_stateRegister]
  idle := by rw [drain_emit hp, h.idle]

/-- INIT sends no frame: a deselected chip hears the line go high and does nothing (43_transfer_and_init.md R110). -/
theorem init_drain_chip {s : State} (hp : s.atRest) (hidle : s.chip.rx = .idle) (cfg : Option BusConfig) :
    ({ s with busConfig := cfg, pending := s.pending ++ [.line s.selectLine .high] } : State).drain.chip = s.chip := by
  have hp : s.pending = [] := hp
  rw [drain_spec, hp]
  simp [Chip.hearAll, Chip.hear, Chip.endFrame, hidle]

/-- An accepted command keeps the agreement: a state-bit command renews it, the others leave both sides. -/
theorem exec_mirrored {i : Instr} {s t : State} (h : s.Mirrored) (hp : s.atRest) (hexec : exec i s = .next t) :
    t.Mirrored := by
  obtain ⟨haddr, hm, hagrees, hidle⟩ := h
  rw [drain_atRest hp] at hagrees hidle
  obtain ⟨-, rfl⟩ | ⟨cfg, -, ⟨n, b, -, rfl⟩ | ⟨-, -, fs, -, hlevel, rfl⟩⟩ := exec_cases hexec
  · have chip := init_drain_chip hp hidle (some s.params.bus)
    exact ⟨haddr, hm, (congrArg Chip.state chip).trans hagrees, (congrArg Chip.rx chip).trans hidle⟩
  · exact queuedFrames_state.mirrored hp hidle haddr hm (congrArg Chip.state (deliverAll_state haddr hm _))
  · have queued : s.QueuedFrames { s with pending := s.pending ++ fs.flatMap fun f => s.frame cfg f.1 f.2 } fs :=
      ⟨cfg, rfl⟩
    exact queued.mirrored hp hidle haddr hm ((deliverAll_level_state _ _ hlevel _).trans hagrees)

/-- Settles O52: a clean edge delivers what was to be delivered, accepts a command, or leaves block and chip. -/
theorem cleanStepsKeepMirrorAndChipInAgreement : Obligations.CleanStepsKeepMirrorAndChipInAgreement := by
  intro s t hs hclean h
  obtain ⟨hr, hsteady, hloss⟩ := clean_iff.mp hclean
  obtain ⟨hr', -⟩ | ⟨-, e, rest, hp, he⟩ | ⟨-, hp, hv, he⟩ | ⟨-, hp, hv, he⟩ := edge_cases s.sample s.sampled
  · cases hr.symm.trans hr'
  all_goals
    rw [upsetChip_of_steady hsteady] at he
    replace he := he.symm.trans h
  · cases he
    cases hready : s.sample.evReady
    · simpa [State.offer, hready] using hs.sampled
    · simpa [State.offer, hready, hloss] using hs.sampled.emit hp
  · exact exec_mirrored hs.sampled hp he
  · cases he
    exact hs.sampled

/-! ## Level commands -/

/-- What a level command stores once its frames are delivered: the left frame, and the right one when unlinked. -/
theorem writeChannels_drain_chip {s : State} {cfg : BusConfig} (hc : s.busConfig = some cfg) (hp : s.atRest)
    (hidle : s.chip.rx = .idle) (linked : Bool) (cl cr : Nibble) (dl dr : Byte) :
    ∃ t, s.writeChannels linked cl cr dl dr = .next t ∧
      t.drain.chip = (Chip.deliverAll s.params.ctrl s.free s.deviceAddress (s.chip, s.freeIndex)
        (if linked then [(cl, dl)] else [(cl, dl), (cr, dr)])).1 := by
  have ht := afterInit_some hc fun cfg =>
    s.enqueue (if linked then s.frame cfg cl dl else s.frame cfg cl dl ++ s.frame cfg cr dr)
  refine ⟨_, ht, State.QueuedFrames.drain_chip ⟨cfg, ?_⟩ hp hidle⟩
  cases linked <;> simp [State.enqueue]

/-- Settles O55: the frames to the attenuation addresses, for each value of the two link flags. -/
theorem setvolStoresOnlyAttenuations : Obligations.SetvolStoresOnlyAttenuations := by
  intro l r s cfg hc hp hidle haddr hm
  obtain ⟨t, ht, chip⟩ := writeChannels_drain_chip hc hp hidle s.attLink s.params.ctrl.attL s.params.ctrl.attR
    (encAtt l) (encAtt r)
  refine ⟨t, ht, fun hlink h7 => ?_, fun hlink h7 => ?_, fun hlink h7 => ?_, fun hlink h7 => ?_⟩ <;>
    rw [chip] <;> simp only [hlink, Bool.false_eq_true, if_true, if_false]
  · rw [deliverAll_cons, (deliver_attL _ _ _ haddr.symm).1 h7, deliverAll_cons,
      (deliver_attR (k := { s.chip with attL := encAtt l }) _ _ _ hm haddr.symm).1 h7, deliverAll_nil]
  · rw [deliverAll_cons, (deliver_attL _ _ _ haddr.symm).2 h7, deliverAll_nil]
  · rw [deliverAll_cons, (deliver_attL _ _ _ haddr.symm).1 h7, deliverAll_nil]
  · rw [deliverAll_cons, (deliver_attL _ _ _ haddr.symm).2 h7, deliverAll_cons,
      (deliver_attR (k := { s.chip with attL := encAtt l, attR := encAtt l }) _ _ _ hm haddr.symm).2 h7, deliverAll_nil]

/-- Settles O56: the frames to the gain addresses, for each value of the two link flags. -/
theorem setgainStoresOnlyGains : Obligations.SetgainStoresOnlyGains := by
  intro l r s cfg hc hp hidle haddr hm
  obtain ⟨t, ht, chip⟩ := writeChannels_drain_chip hc hp hidle s.gainLink s.params.ctrl.gainL s.params.ctrl.gainR
    (encGain l) (encGain r)
  refine ⟨t, ht, fun hlink h6 => ?_, fun hlink h6 => ?_, fun hlink h6 => ?_, fun hlink h6 => ?_⟩ <;>
    rw [chip] <;> simp only [hlink, Bool.false_eq_true, if_true, if_false]
  · rw [deliverAll_cons, (deliver_gainL _ _ _ hm haddr.symm).1 h6, deliverAll_cons,
      (deliver_gainR (k := { s.chip with gainL := encGain l }) _ _ _ hm haddr.symm).1 h6, deliverAll_nil]
  · rw [deliverAll_cons, (deliver_gainL _ _ _ hm haddr.symm).2 h6, deliverAll_nil]
  · rw [deliverAll_cons, (deliver_gainL _ _ _ hm haddr.symm).1 h6, deliverAll_nil]
  · rw [deliverAll_cons, (deliver_gainL _ _ _ hm haddr.symm).2 h6, deliverAll_cons,
      (deliver_gainR (k := { s.chip with gainL := encGain l, gainR := encGain l }) _ _ _ hm haddr.symm).2 h6,
      deliverAll_nil]

end Sys2Proof.Machine
end

section
/-! The clock edge (10_state.md R22, R23, R27; 60_exceptions.md R123, R132; 70_reset_and_hazards.md R135, R136, R142):
each of the edges by itself, the ports, the state after power-up, and what happens to the chip alone. -/

namespace Sys2Proof.Machine

/-! ## Edges without reset -/

/-- Settles O32: an accepting edge runs the decoded word, and the word of a command decodes to its expansion (O2). -/
theorem stepRunsTheDecodedCommand : Obligations.StepRunsTheDecodedCommand := by
  intro s hr hp hv
  have accepted : step s = exec (decode s.sample.cmdWord) (s.sampled.upsetChip s.sample) :=
    edge_accept (s := s.sampled) hr hp hv
  refine ⟨accepted, fun hsteady => ?_, fun i hwf hword => ?_⟩
  · rw [accepted, upsetChip_of_steady hsteady]
    rfl
  · rw [accepted, hword, decodingAnEncodedCommandGivesItsExpansion i hwf]

theorem step_delivers {s : State} {e : Event} {rest : List Event} (hp : s.pending = e :: rest)
    (hr : s.sample.rst = false) (hready : s.sample.evReady = true) :
    ∃ chip n, step s = .next (s.passedDelivering e rest chip n) := by
  obtain ⟨chip, n, hupset⟩ := upsetChip_sampled s.sample s
  obtain ⟨chip', n', hoffer⟩ := offer_passed hready s e rest chip n
  exact ⟨chip', n', by rw [← hoffer, ← hupset]; exact edge_deliver (s := s.sampled) hr hp⟩

/-- Settles O33: the delivery, with `lineLevel` and `txnOpen` read off the event. -/
theorem busyBlockDeliversItsNextEvent : Obligations.BusyBlockDeliversItsNextEvent := by
  intro s e rest hp hr hready
  obtain ⟨chip, n, h⟩ := step_delivers hp hr hready
  refine ⟨_, h, ?_⟩
  cases e with
  | line id level => cases level <;> rfl
  | _ => rfl

/-- Settles O34: an event that is not taken stays offered, and without event and command nothing is done. -/
theorem blockWaitsForTransportAndHost : Obligations.BlockWaitsForTransportAndHost := by
  intro s hr hwait
  refine ⟨?step, ?block⟩
  case step =>
    obtain ⟨hp, hready⟩ | ⟨hp, hv⟩ := hwait
    · obtain ⟨e, rest, hp⟩ := List.exists_cons_of_ne_nil hp
      refine (edge_deliver (s := s.sampled) hr hp).trans ?_
      simp [State.offer, hready]
    · exact edge_idle (s := s.sampled) hr hp hv
  case block =>
    rw [upsetChip_blockOnly, ← blockOnly_sampled]
    rfl

/-! ## Reset -/

/-- Settles O35: the block's part of a reset, whatever befalls the chip. -/
theorem resetEdgeGivesTheResetValues : Obligations.ResetEdgeGivesTheResetValues := by
  intro s hr
  obtain ⟨chip, n, h⟩ := resetEdge_sampled s.sample s
  refine ⟨_, edge_reset (s := s.sampled) hr, ?_⟩
  rw [h]
  exact ⟨rfl, rfl, rfl, rfl, rfl, rfl, rfl, rfl, rfl, rfl, rfl⟩

theorem resetEdge_of_steady {p : PortSample} (h : p.chipUpset = .steady) (s : State) :
    s.resetEdge p = if s.pending = [] then s.blockReset p.strap else (s.blockReset p.strap).scrambleChip := by
  simp [State.resetEdge, h]

/-- Settles O36: without pending events only the block is reset, with pending events the chip is scrambled too. -/
theorem resetTouchesTheChipOnlyMidCommand : Obligations.ResetTouchesTheChipOnlyMidCommand := by
  intro s hr hsteady
  refine ⟨_, edge_reset (s := s.sampled) hr, fun hp => ?idle, fun hp => ?busy⟩ <;> rw [resetEdge_of_steady hsteady]
  case idle =>
    rw [if_pos (show s.sampled.pending = [] from hp)]
    exact ⟨rfl, rfl⟩
  case busy =>
    rw [if_neg (show s.sampled.pending ≠ [] from hp)]
    cases hrx : s.chip.rx <;> simp [State.scrambleChip, Chip.scramble, Receiver.cutOff, hrx]

/-! ## Upsets of the chip -/

/-- Settles O60: reset or not, the chip's upset gives it the registers of a power-on or of a scramble. -/
theorem chipUpsetsLeaveUnknownRegisters : Obligations.ChipUpsetsLeaveUnknownRegisters := by
  intro s unknown
  have scrambled : unknown = { s.chip.scramble s.free s.freeIndex with rx := s.chip.rx.cutOff } := by
    cases hrx : s.chip.rx <;> simp [unknown, Chip.scramble, Receiver.cutOff, hrx]
  refine ⟨fun h => ⟨fun hr => ?cycledReset, fun hr => ?cycledWork⟩,
    fun h => ⟨fun hr => ?chipReset, fun hr => ?chipWork⟩⟩
  case cycledReset | chipReset =>
    refine ⟨_, edge_reset (s := s.sampled) hr, ?_⟩
    simp only [State.resetEdge, h]
    exact ⟨rfl, rfl, rfl, rfl, by rw [scrambled]; rfl⟩
  case cycledWork | chipWork =>
    rw [scrambled]
    simp only [step, State.edge, hr, State.upsetChip, h]
    rfl

/-! ## Power-up -/

/-- 20_memory.md R39: the flags 7:5 are zero after power-on. -/
theorem fresh_flags (line : LineId) (address : Nibble) :
    (Chip.fresh line address).state.getLsbD 7 = false ∧ (Chip.fresh line address).state.getLsbD 6 = false ∧
      (Chip.fresh line address).state.getLsbD 5 = false := by
  simp [Chip.fresh, Chip.powerOn]

/-- Settles O37: the values of the table by definition, the flags by the mask of power-on. -/
theorem resetStateHoldsTheValuesOfTheTable : Obligations.ResetStateHoldsTheValuesOfTheTable :=
  ⟨⟨_, _, _, rfl⟩, fun _ line strap => ⟨rfl, rfl, rfl, rfl, rfl, rfl, rfl, fresh_flags line strap⟩⟩

/-- 43_transfer_and_init.md R110 in the atomic view: INIT drives the line and leaves mirror and chip. -/
theorem init_drain {s : State} (hp : s.atRest) (hidle : s.chip.rx = .idle) :
    ∃ t, exec .init s = .next t ∧ t.drain.trace = s.trace ++ [.line s.selectLine .high] ∧ t.drain.lineLevel = .high ∧
      t.drain.stateRegister = s.stateRegister ∧ t.drain.chip = s.chip := by
  refine ⟨_, exec_init s, ?_, ?_, drain_stateRegister _, init_drain_chip hp hidle _⟩ <;>
    rw [drain_spec, show s.pending = [] from hp] <;> rfl

/-- Settles O53: the one event of INIT is heard by a deselected chip, whose flags are zero while the mirror is 0x20. -/
theorem afterPowerUpAndInitOnlyBitFiveDisagrees : Obligations.AfterPowerUpAndInitOnlyBitFiveDisagrees := by
  intro params line strap
  obtain ⟨h7, h6, h5⟩ := fresh_flags line strap
  obtain ⟨t, ht, trace, level, mirror, chip⟩ := init_drain (s := State.powerUp params line strap) rfl rfl
  have mirror : t.drain.stateRegister = 0x20#8 := mirror
  refine ⟨t, ht, trace, level, mirror, chip, ?_⟩
  rw [chip, mirror]
  exact ⟨h7.trans (by decide), h6.trans (by decide), ne_of_eq_of_ne h5 (by decide)⟩

/-! ## Ports -/

theorem data_of_kind_ne_xfer {e : Event} (h : e.kind ≠ 2#3) : e.data = 0#8 := by
  cases e with
  | xfer b => exact absurd rfl h
  | _ => rfl

theorem kind_le_four (e : Event) : e.kind.toNat ≤ 4 := by
  cases e with
  | line id level => cases level <;> simp [Event.kind]
  | _ => simp [Event.kind]

/-- The event of a block with configuration `cfg` and select line `line` that has the codes `kind` and `data`. -/
def eventOfCodes (cfg : BusConfig) (line : LineId) (kind : BitVec 3) (data : Byte) : Event :=
  match kind.toNat with
  | 0 => .txnBegin cfg
  | 1 => .line line .low
  | 2 => .xfer data
  | 3 => .line line .high
  | _ => .txnEnd

/-- R22: within one block, whose configuration and select line are known, the codes determine the event. -/
theorem eventOfCodes_codes {e : Event} {cfg : BusConfig} {line : LineId} (hcfg : ∀ c, e = .txnBegin c → c = cfg)
    (hline : ∀ i l, e = .line i l → i = line) : eventOfCodes cfg line e.kind e.data = e := by
  cases e with
  | txnBegin c => rw [hcfg c rfl]; rfl
  | line i level =>
    rw [hline i level rfl]
    cases level <;> rfl
  | xfer b => rfl
  | txnEnd => rfl

/-- Settles O38: the codes event by event, the outputs by the head of the queue. -/
theorem portCodesIdentifyTheEvents : Obligations.PortCodesIdentifyTheEvents := by
  refine ⟨fun _ => rfl, fun _ => ⟨rfl, rfl⟩, fun _ => ⟨rfl, rfl⟩, rfl, fun _ => data_of_kind_ne_xfer,
    fun cfg line e f hcfg hline hkind hdata => ?identify, fun s => ?outputs⟩
  case identify =>
    rw [← eventOfCodes_codes (e := e) (fun c h => hcfg c (.inl h)) (fun i l h => hline i l (.inl h)), hkind, hdata,
      eventOfCodes_codes (fun c h => hcfg c (.inr h)) (fun i l h => hline i l (.inr h))]
  case outputs =>
    refine ⟨List.isEmpty_iff, by simp [State.evValid], fun k hk => ?_, fun hp => by simp [State.evData, hp],
      fun e rest hp => by simp [State.evKind, State.evData, hp]⟩
    obtain ⟨e, -, rfl⟩ := Option.map_eq_some_iff.mp hk
    exact kind_le_four e

end Sys2Proof.Machine
end

section
/-! Several edges in a row (10_state.md R23, 70_reset_and_hazards.md R145, R149): calm edges deliver the queue from its
head, so a command's edges are its atomic step, and after six of twelve edges an unlinked SETVOL is half done. -/

namespace Sys2Proof.Machine

theorem run_succ {s t : State} (h : step s = .next t) (n : Nat) : core.run (n + 1) s = core.run n t := by
  have h : core.step s = .next t := h
  simp [Host.Core.run, h]

theorem run_add {s t : State} {m : Nat} (h : core.run m s = .next t) (n : Nat) :
    core.run (m + n) s = core.run n t := by
  induction m generalizing s with
  | zero =>
    cases h
    rw [Nat.zero_add]
  | succ m ih =>
    rw [Nat.add_right_comm]
    simp only [Host.Core.run] at h ⊢
    split at h
    · rename_i u hu
      rw [ih h]
    · cases h
    · cases h

theorem run_fixed {s : State} (h : step s = .next s) (n : Nat) : core.run n s = .next s := by
  induction n with
  | zero => rfl
  | succ n ih => rw [run_succ h, ih]

theorem sample_calm {s : State} {n : Nat} (h : ∀ p ∈ s.inputs.take (n + 1), p.calm = true) : s.sample.calm = true := by
  cases hs : s.inputs with
  | nil => simp only [State.sample, hs]; rfl
  | cons p ps => simpa [State.sample, hs] using h p (by simp [hs])

/-- R23: as many calm edges as events are pending drain the block. -/
theorem run_calm_drains {es : List Event} {s : State} (hp : s.pending = es)
    (hcalm : ∀ p ∈ s.inputs.take es.length, p.calm = true) :
    core.run es.length s = .next { s.drain with inputs := s.inputs.drop es.length } := by
  induction es generalizing s with
  | nil =>
    rw [drain_atRest hp]
    rfl
  | cons e rest ih =>
    have delivered := step_calm hp (sample_calm hcalm)
    have later : ∀ p ∈ s.inputs.tail.take rest.length, p.calm = true := fun p hmem =>
      hcalm p (List.mem_of_mem_tail (by simpa [List.tail_take_eq_take_tail] using hmem))
    rw [List.length_cons, run_succ delivered, ih rfl (by simpa using later), drain_emit (s := s.sampled) hp,
      drain_sampled]
    simp

/-- Settles O48: the accepting edge, then the calm edges that drain what it queued. -/
theorem edgesOfACommandAreItsAtomicStep : Obligations.EdgesOfACommandAreItsAtomicStep := by
  intro s t hr hsteady hv hp hexec hcalm
  have accepted : step s = .next t := by
    refine (edge_accept (s := s.sampled) hr hp hv).trans ?_
    rw [upsetChip_of_steady hsteady, hexec]
  rw [Nat.add_comm, run_succ accepted, run_calm_drains rfl hcalm]

/-- Settles O49: the pending events, at most twelve, are delivered; then the block stays where it is. -/
theorem acceptedCommandRetiresWithinTwelveEdges : Obligations.AcceptedCommandRetiresWithinTwelveEdges := by
  intro s hinv hi
  have drained : core.run s.pending.length s = .next s.drain := by
    simpa [drain_eq] using run_quiet s.pending.length s hi le_rfl
  have still : step s.drain = .next s.drain := step_quiet (by rw [drain_spec]; exact hi) (by rw [drain_spec])
  obtain ⟨n, hn⟩ := Nat.exists_eq_add_of_le hinv.pending_le
  refine ⟨s.drain, ?_, ?_⟩
  · rw [hn, run_add drained, run_fixed still]
  · rw [drain_spec]
    exact ⟨rfl, rfl, rfl, rfl⟩

/-- Six quiet edges deliver the first frame of the queue and leave the rest of it. -/
theorem run_first_frame {s : State} {cfg : BusConfig} {ctrl : Nibble} {data : Byte} {rest : List Event}
    (hp : s.pending = s.frame cfg ctrl data ++ rest) (hi : s.inputs = []) (hidle : s.chip.rx = .idle) :
    ∃ u, core.run 6 s = .next u ∧
      u.chip = (s.chip.deliver s.params.ctrl s.free s.freeIndex data (controlByte ctrl s.deviceAddress)).1 ∧
      u.txnOpen = false ∧ u.pending = rest := by
  have first : s.pending.take 6 = s.frame cfg ctrl data := by rw [hp]; rfl
  have others : s.pending.drop 6 = rest := by rw [hp]; rfl
  refine ⟨_, run_quiet 6 s hi (by simp [hp]), ?_⟩
  rw [emitAll_spec, first, others]
  exact ⟨congrArg Prod.fst (hearAll_frame _ _ _ _ hidle _ _ _ _ _), rfl, rfl⟩

/-- Settles O57: six quiet edges deliver the left frame and no event of the right one. -/
theorem leftChannelIsNewBeforeTheRightOne : Obligations.LeftChannelIsNewBeforeTheRightOne := by
  intro l r s cfg hc hp hi hidle haddr hm hlink h7
  have queued := (exec_setvol l r s).trans (writeChannels_of_unlinked hc s.params.ctrl.attL s.params.ctrl.attR
    (encAtt l) (encAtt r) hlink)
  rw [show s.pending = [] from hp, List.nil_append] at queued
  obtain ⟨u, hrun, chip, txn, pending⟩ := run_first_frame (s := { s with
    pending := s.frame cfg s.params.ctrl.attL (encAtt l) ++ s.frame cfg s.params.ctrl.attR (encAtt r) }) rfl hi hidle
  refine ⟨_, u, queued, hrun, ?_, txn, by rw [pending]; rfl⟩
  exact chip.trans (congrArg Prod.fst ((deliver_attL _ _ _ haddr.symm).1 h7))

end Sys2Proof.Machine
end

section
/-! Several blocks on one bus (20_memory.md R43, R45; 70_reset_and_hazards.md R148): who may have a transaction open,
whose events are logged, and what an edge of one does to the others. -/

namespace Sys2Proof.Machine

/-! ## Exclusion -/

/-- Every step keeps the list of select lines. -/
theorem bus_step_selectLines {b b' : Bus} {k : Nat} (h : b.step k = .next b') :
    b'.nodes.map State.selectLine = b.nodes.map State.selectLine := by
  obtain ⟨-, rfl⟩ | ⟨s, t, hs, he, rfl⟩ := bus_step_cases h
  · rfl
  · have line : t.selectLine = s.selectLine := edge_selectLine (s := s.sampled) he
    obtain ⟨hk, hs⟩ := List.getElem?_eq_some_iff.mp hs
    apply List.ext_getElem?
    intro j
    obtain rfl | hj := eq_or_ne j k
    · rw [List.getElem?_map, settle_nodes_self hk]
      simp [hs, hk, line]
    · rw [List.getElem?_map, settle_nodes_other hj]
      simp [Function.comp_def]

/-- R43: the transport takes an event of `k` only while no other transaction is open. -/
theorem grant_ready {b : Bus} {k : Nat} {p : PortSample} (h : (b.grant k p).evReady = true) :
    ∀ j u, j ≠ k → b.nodes[j]? = some u → u.txnOpen = false := by
  have free : b.heldAgainst k = false := by
    simpa using (Bool.and_eq_true_iff.mp h).2
  exact heldAgainst_eq_false.mp free

/-- R45: after an edge of `k` that leaves its transaction open, no other one is. -/
theorem edge_excludes {b : Bus} {k : Nat} {s t : State} {p : PortSample} (hb : b.Exclusive) (hs : b.nodes[k]? = some s)
    (he : s.sampled.edge (b.grant k p) = .next t) (ht : t.txnOpen = true) {j : Nat} {u : State} (hj : j ≠ k)
    (hu : b.nodes[j]? = some u) : u.txnOpen = false := by
  obtain hopen | hready := edge_txnOpen he ht
  · by_contra huopen
    exact hj (hb j k u s hu hs (by simpa using huopen) hopen)
  · exact grant_ready hready j u hj hu

/-- An open transaction after an edge of `k` is `k`'s own, or was open before. -/
theorem settle_open {b : Bus} {k j : Nat} {t u : State} {a : Bool} {d : Option Event} (hk : k < b.nodes.length)
    (hu : (b.settle k t a d).nodes[j]? = some u) (ho : u.txnOpen = true) :
    (j = k ∧ t.txnOpen = true) ∨ (j ≠ k ∧ ∃ w, b.nodes[j]? = some w ∧ w.txnOpen = true) := by
  obtain rfl | hj := eq_or_ne j k
  · rw [settle_nodes_self hk] at hu
    cases hu
    exact .inl ⟨rfl, ho⟩
  · rw [settle_nodes_other hj] at hu
    obtain ⟨w, hw, rfl⟩ := Option.map_eq_some_iff.mp hu
    exact .inr ⟨hj, w, hw, by simpa using ho⟩

theorem bus_step_exclusive {b b' : Bus} {k : Nat} (h : b.step k = .next b') (hb : b.Exclusive) : b'.Exclusive := by
  obtain ⟨-, rfl⟩ | ⟨s, t, hs, he, rfl⟩ := bus_step_cases h
  · exact hb
  · have hk : k < b.nodes.length := (List.getElem?_eq_some_iff.mp hs).1
    intro i j u v hu hv huo hvo
    obtain ⟨rfl, hto⟩ | ⟨hi, x, hx, hxo⟩ := settle_open hk hu huo <;>
      obtain ⟨rfl, hto'⟩ | ⟨hj, y, hy, hyo⟩ := settle_open hk hv hvo
    · rfl
    · cases hyo.symm.trans (edge_excludes hb hs he hto hj hy)
    · cases hxo.symm.trans (edge_excludes hb hs he hto' hi hx)
    · exact hb i j x y hx hy hxo hyo

/-- Settles O58: the transport's exclusion, and no step touches a select line. -/
theorem busStepsKeepTransactionsExclusive : Obligations.BusStepsKeepTransactionsExclusive := by
  intro b b' k h
  refine ⟨bus_step_exclusive h, fun hd => ?_⟩
  rw [Bus.DistinctLines, bus_step_selectLines h]
  exact hd

/-! ## The log and the other blocks -/

theorem delivered_eq_some {p : PortSample} {s : State} {e : Event} (h : s.delivered p = some e) :
    p.rst = false ∧ p.evReady = true ∧ e ∈ s.pending := by
  unfold State.delivered at h
  split at h
  · cases h
  · split at h
    · exact ⟨by simpa using ‹¬ p.rst = true›, ‹_›, List.mem_of_mem_head? h⟩
    · cases h

/-- 10_state.md R19: a `LINE` event among whole items carries the select line of the state. -/
theorem line_mem_items {s : State} {is : List (Option (Nibble × Byte))} {id : LineId} {level : Level}
    (h : Event.line id level ∈ is.flatMap s.itemEvents) : id = s.selectLine := by
  obtain ⟨i, -, hi⟩ := List.mem_flatMap.mp h
  cases i <;> simp [State.itemEvents, frameEvents] at hi <;> tauto

theorem State.Inv.pending_line {s : State} (h : s.Inv) {id : LineId} {level : Level}
    (hmem : Event.line id level ∈ s.pending) : id = s.selectLine := by
  obtain ⟨is, -, his⟩ := h.items
  exact line_mem_items (is := is) (his ▸ List.mem_append_right _ hmem)

/-- R148: a select line names its place on the bus. -/
theorem Bus.DistinctLines.place_eq {b : Bus} (h : b.DistinctLines) {j k : Nat} {s t : State} (hs : b.nodes[k]? = some s)
    (ht : b.nodes[j]? = some t) (hline : t.selectLine = s.selectLine) : j = k := by
  have hj : j < (b.nodes.map State.selectLine).length := by
    simpa using (List.getElem?_eq_some_iff.mp ht).1
  exact (List.getElem?_inj hj h).mp (by simp [hs, ht, hline])

section Edge

variable {b : Bus} {k : Nat} {s t : State}

/-- The log after an edge of `k`: as before, or with an event of `k` that no open transaction of another precedes. -/
theorem settle_log (a : Bool) (p : PortSample) :
    (b.settle k t a (s.delivered (b.grant k p))).log = b.log ∨
      ∃ e, (b.settle k t a (s.delivered (b.grant k p))).log = b.log ++ [(k, e)] ∧
        ∀ j u, j ≠ k → b.nodes[j]? = some u → u.txnOpen = false := by
  cases hd : s.delivered (b.grant k p) with
  | none => exact .inl (by simp [Bus.settle])
  | some e =>
    obtain ⟨-, hready, -⟩ := delivered_eq_some hd
    exact .inr ⟨e, by simp [Bus.settle], grant_ready hready⟩

theorem settle_log_eq {a : Bool} {d : Option Event} {e : Event} (h : (b.settle k t a d).log = b.log ++ [(k, e)]) :
    d = some e := by
  have delivered := List.append_cancel_left h
  cases d with
  | none => simp at delivered
  | some f => simpa using delivered

/-- 60_exceptions.md R129: an edge of `k` leaves the other blocks. -/
theorem settle_blockOnly {j : Nat} (a : Bool) (d : Option Event) (hj : j ≠ k) :
    ((b.settle k t a d).nodes[j]?).map State.blockOnly = (b.nodes[j]?).map State.blockOnly := by
  rw [settle_nodes_other hj, Option.map_map]
  congr 1
  funext u
  exact bystand_blockOnly a d u

/-- R136: an edge that abandons and delivers nothing leaves the others with their chips, and the log. -/
theorem settle_silent : (b.settle k t false none).log = b.log ∧
    ∀ j, j ≠ k → (b.settle k t false none).nodes[j]? = b.nodes[j]? := by
  refine ⟨by simp [Bus.settle], fun j hj => ?_⟩
  rw [settle_nodes_other hj]
  exact Option.map_id_apply

end Edge

/-- Settles O59: what the transport grants, what a bystander's block keeps, and whose line an item names. -/
theorem noEventFallsIntoAnothersTransaction : Obligations.NoEventFallsIntoAnothersTransaction := by
  intro b b' k h
  obtain ⟨hk, rfl⟩ | ⟨s, t, hs, he, rfl⟩ := bus_step_cases h
  · refine ⟨.inl rfl, fun _ _ => rfl, fun s _ _ hs => ?_, fun s hs => ?_⟩ <;> cases hk.symm.trans hs
  · refine ⟨settle_log _ _, fun j hj => settle_blockOnly _ _ hj, fun s' id level hs' hinv hlog => ?line,
      fun s' hs' hr ho => ?reset⟩ <;> cases hs.symm.trans hs'
    case line =>
      obtain ⟨-, -, hmem⟩ := delivered_eq_some (settle_log_eq hlog)
      have own : id = s.selectLine := hinv.pending_line hmem
      exact ⟨own, fun hd j u hu hline => hd.place_eq hs hu (hline.trans own)⟩
    case reset =>
      have nothing : s.sampled.delivered (b.grant k s.sample) = none := by simp [State.delivered, Bus.grant, hr]
      have kept : s.sampled.abandons (b.grant k s.sample) = false := by simp [State.abandons, ho]
      rw [nothing, kept]
      exact settle_silent

end Sys2Proof.Machine
end
